-- ==== Sys2Proof/Word.lean ====
section
/-! DEFINITION. The widths of the block (`00_scope.md` R9, R11): a REQ or ACC word has `W = 32` bits, a TX
byte 8 bits, the result field of a response `RW = 2 * W + 2 = 66` bits, all read as two's complement where signed.
The width is the value the spec decides (log 1). -/

namespace Sys2Proof

/-- One word of the REQ or ACC channel, one operand, one accelerometer reading (R9, R40). -/
abbrev Word := BitVec 32

/-- One byte handed to the transport (R11, R43). -/
abbrev Byte := BitVec 8

/-- The result field of a response, `RW` bits, signed (R9, R86, R114). -/
abbrev ResultWord := BitVec 66

/-- A Command: an ordered sequence of signed integers (R120). -/
abbrev Command := List Int

end Sys2Proof
end

