-- ==== Sys2Proof/Config.lean ====
section
/-! DEFINITION. What is fixed before reset is released: the two parameters a model may vary (`00_scope.md` R9), the
constants it may not (R10), and the two values the spec leaves open (`T_PAUSE`, the accelerometer's readings). -/

namespace Sys2Proof

/-- The parameter `FRAMING` (R9, R70): which wire format the Frame Encoder produces. -/
inductive Framing where
  | checksummed
  | simple
deriving DecidableEq, Repr

/-- The static parameters (R9, R27). They ride in State so that a statement covers every setting; no step writes
them (log 2). -/
structure Params where
  framing : Framing
  /-- `KMAX`, the largest number of values in one Command, `0 <= KMAX <= 255`. -/
  kmax    : Fin 256
deriving DecidableEq, Repr

/-- The accelerometer axes the block can ask for (R46, R89). -/
inductive Axis where
  | x
  | y
  | z
deriving DecidableEq, Repr

/-- The values R9 decides: checksummed framing, `KMAX = 255`. -/
def Params.decided : Params := { framing := .checksummed, kmax := 255 }

/-! The constants of R10. -/

def Config.payloadMin : Int := 0
def Config.payloadMax : Int := 127
def Config.checkMod   : Int := 128
def Config.hdr0 : Byte := 0x2A
def Config.hdr1 : Byte := 0x2B
def Config.accSrcLow  : Int := -1024
def Config.accSrcHigh : Int := 1024
def Config.accDstLow  : Int := 0
def Config.accDstHigh : Int := 127
/-- The line rate of the external transport; recorded only, no rule of the block reads it (R10, R215). -/
def Config.baud : Nat := 115200

/-! The byte values of the characters (R64; from general knowledge, G1: UNVERIFIED, log 12). -/

def Config.fieldOpen   : Byte := 0x3C
def Config.fieldClose  : Byte := 0x3E
def Config.frameEnd    : Byte := 0x5E
def Config.simpleOpen  : Byte := 0x53
def Config.simpleClose : Byte := 0x45
def Config.minusSign   : Byte := 0x2D
def Config.digitZero   : Byte := 0x30

/-- `T_PAUSE`, OPEN (R9, R45; U4). No rule reads it and nothing in the model does (log 3). -/
opaque Config.tPause : Nat

/-- FREE VALUE (R46, U9; log 5): what the accelerometer answers to the `k`-th ACC read of the run, on that axis, when
`State.accIn` has fixed no answer. -/
opaque Config.freeReading : Nat → Axis → Word

end Sys2Proof
end

