-- ==== Sys2Proof/Syntax.lean ====
section
/-! DEFINITION. The eleven operations (`30_encoding.md` R80, `00_scope.md` R18), one constructor per row of
`spec/opcode_table.json`, its fields the operand words in the order of R80. Operands are whole words (R77); the
meaning of an operand is read in `Machine/`. -/

namespace Sys2Proof

inductive Instr where
  /-- CLAMP value (R103). -/
  | clamp (value : Word)
  /-- LSCALE value, from_low, from_high, to_low, to_high (R104). -/
  | lscale (value fromLow fromHigh toLow toHigh : Word)
  /-- ASCALE raw (R105). -/
  | ascale (raw : Word)
  /-- MIDI_COMMAND values (R125). -/
  | midiCommand (values : List Word)
  /-- MIDI_MESSAGE channel, rawValue (R150). -/
  | midiMessage (channel rawValue : Word)
  /-- MIDI_SCALED channel, rawValue, from_low, from_high, to_low, to_high (R151). -/
  | midiScaled (channel rawValue fromLow fromHigh toLow toHigh : Word)
  /-- SWITCH_ON channel (R152). -/
  | switchOn (channel : Word)
  /-- SWITCH_OFF channel (R153). -/
  | switchOff (channel : Word)
  /-- TOGGLE channel (R154). -/
  | toggle (channel : Word)
  /-- BANG channel (R155). -/
  | bang (channel : Word)
  /-- ACCELERATION axis (R156). The operand is a word: an axis number other than 0, 1, 2 is a request the block answers
  with `IllegalRequest` (R89; log 16). -/
  | acceleration (axis : Word)
deriving DecidableEq, Repr

/-- The operand words of a request, in the order of R80: the operand slots `x[0..n-1]` of R21. -/
def Instr.operands : Instr → List Word
  | .clamp v => [v]
  | .lscale v fl fh tl th => [v, fl, fh, tl, th]
  | .ascale r => [r]
  | .midiCommand vs => vs
  | .midiMessage c r => [c, r]
  | .midiScaled c r fl fh tl th => [c, r, fl, fh, tl, th]
  | .switchOn c => [c]
  | .switchOff c => [c]
  | .toggle c => [c]
  | .bang c => [c]
  | .acceleration a => [a]

/-- The mnemonic of an operation (`00_scope.md` R18). -/
def Instr.mnemonic : Instr → String
  | .clamp _ => "CLAMP"
  | .lscale _ _ _ _ _ => "LSCALE"
  | .ascale _ => "ASCALE"
  | .midiCommand _ => "MIDI_COMMAND"
  | .midiMessage _ _ => "MIDI_MESSAGE"
  | .midiScaled _ _ _ _ _ _ => "MIDI_SCALED"
  | .switchOn _ => "SWITCH_ON"
  | .switchOff _ => "SWITCH_OFF"
  | .toggle _ => "TOGGLE"
  | .bang _ => "BANG"
  | .acceleration _ => "ACCELERATION"

end Sys2Proof
end

