-- ==== Sys2Proof/WellFormed.lean ====
section
/-! DEFINITION. Which terms of `Instr` are requests (`wellFormed`: the operand count fits the 8-bit field `n`), which
of those are legal under given parameters (`legal`: `60_exceptions.md` R182 (c), (d), (e)), and which have a degenerate
source range (`degenerate`: R181). -/

namespace Sys2Proof

/-- The operand count fits the header's field `n` (R76). Only MIDI_COMMAND has a variable count. -/
def Instr.wellFormed : Instr → Bool
  | .midiCommand vs => decide (vs.length ≤ 255)
  | .clamp _ | .lscale _ _ _ _ _ | .ascale _ | .midiMessage _ _ | .midiScaled _ _ _ _ _ _ | .switchOn _ | .switchOff _
  | .toggle _ | .bang _ | .acceleration _ => true

/-- What R182 (c), (d), (e) ask of a request whose header selects an operation: at most `KMAX` values (R82), BANG only
under the simple framing (R84), an axis number 0, 1 or 2 (R89). -/
def Instr.legal (p : Params) : Instr → Bool
  | .midiCommand vs => decide (vs.length ≤ p.kmax.val)
  | .bang _ => decide (p.framing = .simple)
  | .acceleration a => decide (a = 0 ∨ a = 1 ∨ a = 2)
  | .clamp _ | .lscale _ _ _ _ _ | .ascale _ | .midiMessage _ _ | .midiScaled _ _ _ _ _ _ | .switchOn _ | .switchOff _
  | .toggle _ => true

/-- `from_high = from_low` in one of the two operations that scale between given ranges (R181). -/
def Instr.degenerate : Instr → Bool
  | .lscale _ fl fh _ _ => decide (fh = fl)
  | .midiScaled _ _ fl fh _ _ => decide (fh = fl)
  | .clamp _ | .ascale _ | .midiCommand _ | .midiMessage _ _ | .switchOn _ | .switchOff _ | .toggle _ | .bang _
  | .acceleration _ => false

end Sys2Proof
end

