-- ==== Sys2Proof/Decode.lean ====
section
/-! DEFINITION. The request format (`30_encoding.md` R76 to R83): a header word and its operand words. The decoder is
total on any words and rejects by name; after it, the encoder, written from the same table (R80). -/

namespace Sys2Proof

/-- Why a request is malformed, in the order the checks are made (`60_exceptions.md` R185). All of them are answered
with `IllegalRequest` (R182). -/
inductive Illegal where
  /-- A header bit of `[31:16]` is set (R83). -/
  | reservedBits
  /-- The opcode is not in the table of R80 (R81). -/
  | reservedOpcode
  /-- The operand count is not the operation's (R82). -/
  | operandCount
deriving DecidableEq, Repr

/-- Header field `[7:0]`: the opcode (R76). -/
def opcodeField (h : Word) : BitVec 8 := h.extractLsb' 0 8

/-- Header field `[15:8]`: the number of operand words `n` (R76). -/
def countField (h : Word) : Nat := (h.extractLsb' 8 8).toNat

/-- Header field `[31:16]`: reserved, must be zero (R76). -/
def reservedField (h : Word) : BitVec 16 := h.extractLsb' 16 16

/-- The operation an opcode selects, given the operand words (R80 to R82). -/
def decodeOperands (op : BitVec 8) (xs : List Word) : Except Illegal Instr :=
  match op.toNat with
  | 0x01 => match xs with
    | [v] => .ok (.clamp v)
    | _ => .error .operandCount
  | 0x02 => match xs with
    | [v, fl, fh, tl, th] => .ok (.lscale v fl fh tl th)
    | _ => .error .operandCount
  | 0x03 => match xs with
    | [r] => .ok (.ascale r)
    | _ => .error .operandCount
  | 0x10 => .ok (.midiCommand xs)
  | 0x11 => match xs with
    | [c, r] => .ok (.midiMessage c r)
    | _ => .error .operandCount
  | 0x12 => match xs with
    | [c, r, fl, fh, tl, th] => .ok (.midiScaled c r fl fh tl th)
    | _ => .error .operandCount
  | 0x13 => match xs with
    | [c] => .ok (.switchOn c)
    | _ => .error .operandCount
  | 0x14 => match xs with
    | [c] => .ok (.switchOff c)
    | _ => .error .operandCount
  | 0x15 => match xs with
    | [c] => .ok (.toggle c)
    | _ => .error .operandCount
  | 0x16 => match xs with
    | [c] => .ok (.bang c)
    | _ => .error .operandCount
  | 0x20 => match xs with
    | [a] => .ok (.acceleration a)
    | _ => .error .operandCount
  | _ => .error .reservedOpcode

/-- The decoder: reserved bits first, then the opcode, then the operand count (R185 (a) to (c)). What depends on the
parameters or on an operand's value (R185 (d), (e), and `n > KMAX`) is the meaning's to check (log 17). -/
def decode (h : Word) (xs : List Word) : Except Illegal Instr :=
  if reservedField h ≠ 0 then .error .reservedBits else decodeOperands (opcodeField h) xs

/-- The request at the front of REQ: its header word, its `n` operand words, and the words after it; none while REQ
does not hold the whole request (R41, R78). The length is told from `n` alone, before the opcode is looked at. -/
def splitRequest : List Word → Option (Word × List Word × List Word)
  | [] => none
  | h :: ws =>
    if ws.length < countField h then none else some (h, ws.take (countField h), ws.drop (countField h))

/-- The opcode of an operation (R80). -/
def Instr.opcode : Instr → BitVec 8
  | .clamp _ => 0x01
  | .lscale _ _ _ _ _ => 0x02
  | .ascale _ => 0x03
  | .midiCommand _ => 0x10
  | .midiMessage _ _ => 0x11
  | .midiScaled _ _ _ _ _ _ => 0x12
  | .switchOn _ => 0x13
  | .switchOff _ => 0x14
  | .toggle _ => 0x15
  | .bang _ => 0x16
  | .acceleration _ => 0x20

/-- The header word of a request: reserved bits zero, the operand count, the opcode (R76). -/
def Instr.header (i : Instr) : Word := (0#16 ++ BitVec.ofNat 8 i.operands.length : BitVec 24) ++ i.opcode

/-- The words of a request: the header word, then the operand words in order (R75, R77). -/
def encode (i : Instr) : List Word := i.header :: i.operands

/-- One row of `spec/opcode_table.json`: a header word `h` selects the row when `h &&& mask = pattern` (R80). -/
structure OpcodeRow where
  mnemonic : String
  pattern  : Word
  mask     : Word
deriving DecidableEq, Repr

/-- `spec/opcode_table.json`, row by row (its `match` is `pattern` here). -/
def opcodeTable : List OpcodeRow :=
  [⟨"CLAMP", 0x00000101, 0xFFFFFFFF⟩, ⟨"LSCALE", 0x00000502, 0xFFFFFFFF⟩, ⟨"ASCALE", 0x00000103, 0xFFFFFFFF⟩,
   ⟨"MIDI_COMMAND", 0x00000010, 0xFFFF00FF⟩, ⟨"MIDI_MESSAGE", 0x00000211, 0xFFFFFFFF⟩,
   ⟨"MIDI_SCALED", 0x00000612, 0xFFFFFFFF⟩, ⟨"SWITCH_ON", 0x00000113, 0xFFFFFFFF⟩,
   ⟨"SWITCH_OFF", 0x00000114, 0xFFFFFFFF⟩, ⟨"TOGGLE", 0x00000115, 0xFFFFFFFF⟩, ⟨"BANG", 0x00000116, 0xFFFFFFFF⟩,
   ⟨"ACCELERATION", 0x00000120, 0xFFFFFFFF⟩]

/-- The words of the request whose bits are the low `nbits` bits of `w`, bit 0 the least significant bit of the header
word, every bit above `nbits` zero: the header and the `n` operand words it announces. -/
def tableWords (nbits w : Nat) : List Word :=
  let bits := w % 2 ^ nbits
  let h : Word := BitVec.ofNat 32 bits
  h :: (List.range (countField h)).map fun i => BitVec.ofNat 32 (bits >>> (32 * (i + 1)))

/-- The instruction the decoder reads from the words of `tableWords`; none where it refuses. -/
def decodeTableWord (nbits w : Nat) : Option Instr :=
  match splitRequest (tableWords nbits w) with
  | none => none
  | some (h, xs, _) => (decode h xs).toOption

end Sys2Proof
end

