-- ==== Sys2Proof/Machine/State.lean ====
section
/-! DEFINITION. The state of the block and of the three agents at its channels (`10_state.md`, `20_memory.md` R40),
plain data; the outcomes a step can end with; the state after reset (R30). -/

namespace Sys2Proof.Machine

/-- The status of a response (R86, R180). The two faults of the spec are statuses: the block reports them and goes
on (R184, R186), so no step of the model stops for one. -/
inductive Status where
  | ok
  /-- `from_high = from_low` (R181). -/
  | invalidRange
  /-- The request selects no operation the block gives a meaning (R182). -/
  | illegalRequest
deriving DecidableEq, Repr

/-- One response on RSP (R86). -/
structure Response where
  status    : BitVec 8
  hasResult : Bool
  result    : ResultWord
deriving DecidableEq, Repr

/-- One element of TX: a byte, or the pause marker of the simple framing (R43, R45). -/
inductive TxEvent where
  | byte (b : Byte)
  | gap
deriving DecidableEq, Repr

/-- The Frame Encoder at work on one Command: the command buffer (R22), the checksum accumulator, which exists only
under the checksummed framing (R24), and the TX events of the Command not yet handed over (R29 (a)). -/
structure Encoder where
  values   : Command
  checksum : Option (BitVec 7)
  pending  : List TxEvent
deriving DecidableEq, Repr

/-- An operation in progress (R29): its operand slots (R21), the Frame Encoder while a Command is going out, the
Commands still to be built (R154, R155), the status it will answer, the result latch (R23). -/
structure Operation where
  slots   : List Word
  encoder : Option Encoder
  queued  : List Command
  status  : Status
  result  : Option ResultWord
deriving DecidableEq, Repr

/-- A request the block has consumed: its header word and its operand words (R76 to R78). -/
structure Request where
  header   : Word
  operands : List Word
deriving DecidableEq, Repr

/-- One move of one of the four agents of R15 (log 6). -/
inductive Turn where
  /-- The block moves (R41). -/
  | block
  /-- The requester appends words to REQ (R41). -/
  | append (words : List Word)
  /-- The transport will take that many more TX events, or, with none, every event it is offered (R49). -/
  | transport (room : Option Nat)
  /-- The accelerometer fixes the answer to its next unanswered read (R46). -/
  | sense (reading : Word)
  /-- Reset is asserted (R200): with none, between two moves of the block; with `some k`, inside the block's next
  move, when `k` more TX events have been handed over and before any response (R201; log 10). -/
  | reset (during : Option Nat)
deriving DecidableEq, Repr

/-- The machine: the block's per-operation state and bookkeeping, the four channels with their histories, the static
parameters, and what the model holds of the other agents. -/
structure State where
  /-- The static parameters (R9, R27); no step writes them. -/
  params   : Params
  /-- The index of the request being executed, since the last reset (R25). -/
  pc       : Nat
  /-- The operation in progress; none when the block is not busy (R29, R30). -/
  op       : Option Operation
  /-- REQ: the words appended and not yet consumed, first in first (R41). -/
  req      : List Word
  /-- REQ history: the requests consumed, oldest first (R30). -/
  reqLog   : List Request
  /-- RSP history, oldest first (R42). -/
  rsp      : List Response
  /-- TX history, oldest first (R43). -/
  tx       : List TxEvent
  /-- ACC history: the reads made and their answers, oldest first (R46). -/
  accLog   : List (Axis × Word)
  /-- The accelerometer's: answers already fixed for the next reads, first in first (R46; log 5). -/
  accIn    : List Word
  /-- The transport's: how many more TX events it takes before it stalls; none when it does not stall (R49; log 7). -/
  room     : Option Nat
  /-- The order in which the agents move next; the block moves when it is empty (R15; log 6). -/
  schedule : List Turn
deriving DecidableEq, Repr

/-- The machine never stops with a fault: both faults of the spec are answered in a response and the block goes on
(R180, R184; log 22). So there is no constructor. -/
inductive Fault where
deriving DecidableEq, Repr

/-- Why an instruction has no meaning. -/
inductive Refusal where
  /-- Raised by `exec` alone, for an instruction the model gives no meaning; no arm of this model raises it. Safe: the
  machine stops where the hardware goes on. -/
  | notModelled (mnemonic : String)
deriving DecidableEq, Repr

/-- The machine right after the first reset (R30, R200): not busy, `pc` zero, the parameters as R9 decides them, every
history empty. The last three fields are the other agents' (DESIGN CHOICE: log 5, log 6, log 7). -/
def State.reset : State where
  params   := Params.decided
  pc       := 0
  op       := none
  req      := []
  reqLog   := []
  rsp      := []
  tx       := []
  accLog   := []
  accIn    := []
  room     := none
  schedule := []

end Sys2Proof.Machine
end

