-- ==== Sys2Proof/Machine/Flags.lean ====
section
/-! DEFINITION. The block has no flags, condition codes or sticky bits (`10_state.md` R26): no operation sets or reads
one. What a request leaves to be tested is its response, so this file holds the response's fields (`30_encoding.md`
R86). -/

namespace Sys2Proof.Machine

/-- The 8-bit status code (R86, R180). -/
def Status.code : Status → BitVec 8
  | .ok => 0x00
  | .invalidRange => 0x01
  | .illegalRequest => 0x02

/-- The response of an operation that ends with status `st` and, when it wrote one, the result `res` (R86): a result is
given only with status OK, and the result field is zero where there is none. -/
def Response.of (st : Status) (res : Option ResultWord) : Response :=
  match st, res with
  | .ok, some v => { status := Status.ok.code, hasResult := true, result := v }
  | st, _ => { status := st.code, hasResult := false, result := 0 }

/-- The response the operation will give (R42, R86). -/
def Operation.response (o : Operation) : Response := Response.of o.status o.result

end Sys2Proof.Machine
end

