-- ==== Sys2Proof/Machine/Operands.lean ====
section
/-! DEFINITION. How an operand word is read (`30_encoding.md` R77, R89) and the block's arithmetic, exact over the
integers (`00_scope.md` R13, `41_value_scaler.md` R100 to R102, R110 to R112). -/

namespace Sys2Proof.Machine

/-- `x[i]`: the operand word as a signed integer, `sext_W` (R21, R77). -/
def slotValue (w : Word) : Int := w.toInt

/-- The axis an ACCELERATION request names: 0 is X, 1 is Y, 2 is Z, any other value none (R89). -/
def axisOf (w : Word) : Option Axis :=
  if slotValue w = 0 then some .x
  else if slotValue w = 1 then some .y
  else if slotValue w = 2 then some .z
  else none

/-- `tdiv(a, b) = sign(a) * sign(b) * floor(|a| / |b|)`: the quotient rounded toward zero (R13, R111). The block never
evaluates it at `b = 0` (R104). -/
def tdiv (a b : Int) : Int := a.sign * b.sign * ((a.natAbs / b.natAbs : Nat) : Int)

/-- `emod(a, m)`, for `m > 0`: the least non-negative residue (R13, R112). -/
def emod (a m : Int) : Int := a % m

/-- `Clamp(v)` (R100). -/
def clamp (v : Int) : Int :=
  if v < Config.payloadMin then Config.payloadMin
  else if v > Config.payloadMax then Config.payloadMax
  else v

/-- `LinearScale(v, fl, fh, tl, th)`, for `fh != fl` (R101): the product first, one division rounded toward zero, then
the addition of `tl`. -/
def linearScale (v fl fh tl th : Int) : Int := tl + tdiv ((v - fl) * (th - tl)) (fh - fl)

/-- `AccelerationScale(r)`: the instance of `LinearScale` from `[-1024, 1024]` to `[0, 127]` (R102). -/
def accelerationScale (r : Int) : Int :=
  linearScale r Config.accSrcLow Config.accSrcHigh Config.accDstLow Config.accDstHigh

/-- The result latch: `RW` bits, signed; wide enough for every result (R114). -/
def resultWord (v : Int) : ResultWord := BitVec.ofInt 66 v

end Sys2Proof.Machine
end

