-- ==== Sys2Proof/Machine/Frame.lean ====
section
/-! DEFINITION. The wire formats (`30_encoding.md` R60 to R70) and the functions of the Frame Encoder
(`42_frame_encoder.md` R121 to R124): the bytes and pauses one Command becomes. -/

namespace Sys2Proof.Machine

/-- The ASCII digit of `d`, for `d < 10`: `0x30 + d` (R64). -/
def digitByte (d : Nat) : Byte := Config.digitZero + BitVec.ofNat 8 d

/-- The decimal digits of `n`, most significant first, no leading zero (R65); `fuel` bounds the number of digits. -/
def decimalDigits : (fuel : Nat) → Nat → List Byte
  | 0, _ => []
  | fuel + 1, n => if n < 10 then [digitByte n] else decimalDigits fuel (n / 10) ++ [digitByte (n % 10)]

/-- The decimal ASCII bytes of a natural number (R65). -/
def decNat (n : Nat) : List Byte := decimalDigits (n + 1) n

/-- `dec(v)`: the decimal ASCII bytes of an integer, a minus sign before a negative number (R65; the negative form is
UNVERIFIED, G3, log 12). -/
def dec (v : Int) : List Byte := if v < 0 then Config.minusSign :: decNat v.natAbs else decNat v.natAbs

/-- `field(v)`: opening delimiter, digits, closing delimiter (R61). -/
def field (v : Int) : List Byte := [Config.fieldOpen] ++ dec v ++ [Config.fieldClose]

/-- `Checksum(values)`: the exact sum of the values, modulo 128, in `[0, 127]` (R121). -/
def checksum (values : Command) : Int := emod values.sum Config.checkMod

/-- `frame(values)`: the bytes of the checksummed frame (R60, R123). -/
def frame (values : Command) : List Byte :=
  [Config.hdr0, Config.hdr1] ++ field values.length ++ values.flatMap field ++ field (checksum values)
    ++ [Config.frameEnd]

/-- `unit(v)` of the simple framing, its pause after it (R62, R124). -/
def simpleUnit (v : Int) : List TxEvent :=
  ([Config.simpleOpen] ++ dec v ++ [Config.simpleClose]).map TxEvent.byte ++ [TxEvent.gap]

/-- `EmitCommand(values)`: the TX events of one Command, in the format `FRAMING` selects (R70, R122 to R124). -/
def emitCommand : Framing → Command → List TxEvent
  | .checksummed, values => (frame values).map TxEvent.byte
  | .simple, values => values.flatMap simpleUnit

/-- The checksum accumulator while the Frame Encoder runs: seven bits, under the checksummed framing only
(R24, R128). -/
def accumulator : Framing → Command → Option (BitVec 7)
  | .checksummed, values => some (BitVec.ofInt 7 (checksum values))
  | .simple, _ => none

/-- The Frame Encoder given a Command: nothing of it handed over yet (R22, R24). -/
def Encoder.start (f : Framing) (values : Command) : Encoder :=
  { values := values, checksum := accumulator f values, pending := emitCommand f values }

end Sys2Proof.Machine
end

