-- ==== Sys2Proof/Machine/Ops.lean ====
section
/-! DEFINITION. The named operations every meaning is written over: the updates of State one field at a time, handing
TX events to the transport (`20_memory.md` R43, R49), answering (R42), the ACC read (R46), running an operation, and
raising a fault (`60_exceptions.md` R184), which is one shared operation. -/

namespace Sys2Proof.Machine

/-! ### Updates, one field each -/

def State.setOp (s : State) (o : Option Operation) : State := { s with op := o }
def State.setReq (s : State) (ws : List Word) : State := { s with req := ws }
def State.setRoom (s : State) (r : Option Nat) : State := { s with room := r }
def State.setRsp (s : State) (rs : List Response) : State := { s with rsp := rs }
def State.setAccIn (s : State) (vs : List Word) : State := { s with accIn := vs }
def State.setSchedule (s : State) (ts : List Turn) : State := { s with schedule := ts }
def State.setPc (s : State) (n : Nat) : State := { s with pc := n }
def State.logRequest (s : State) (r : Request) : State := { s with reqLog := s.reqLog ++ [r] }
def State.appendRsp (s : State) (r : Response) : State := { s with rsp := s.rsp ++ [r] }
def State.appendTx (s : State) (es : List TxEvent) : State := { s with tx := s.tx ++ es }
def State.logRead (s : State) (a : Axis) (v : Word) : State := { s with accLog := s.accLog ++ [(a, v)] }

/-! ### Handing TX events to the transport -/

/-- The transport takes the events `es`: they are on TX for good (R43, R51) and use up its room (R49). -/
def State.hand (s : State) (es : List TxEvent) : State :=
  (s.appendTx es).setRoom (s.room.map (· - es.length))

/-- The TX events an operation has still to hand over: the rest of the Command going out, then the Commands not yet
built, in order (R47, R50). -/
def Operation.remaining (f : Framing) (o : Operation) : List TxEvent :=
  match o.encoder with
  | none => []
  | some e => e.pending ++ o.queued.flatMap (emitCommand f)

/-- The Frame Encoder hands over at most `k` events. When a Command has gone out whole its buffer and accumulator are
gone (R22, R24) and the next queued Command is built. Answers the events handed over, the encoder (none when nothing
is left) and the Commands still queued. -/
def encodeUpTo (f : Framing) : List Command → Encoder → Nat → List TxEvent × Option Encoder × List Command
  | queued, e, k =>
    if k < e.pending.length then (e.pending.take k, some { e with pending := e.pending.drop k }, queued)
    else match queued with
      | [] => (e.pending, none, [])
      | c :: cs =>
        let next := encodeUpTo f cs (Encoder.start f c) (k - e.pending.length)
        (e.pending ++ next.1, next.2)

/-- The operation after at most `k` more of its TX events have been handed over, and those events. -/
def Operation.handOver (f : Framing) (k : Nat) (o : Operation) : List TxEvent × Operation :=
  match o.encoder with
  | none => ([], o)
  | some e =>
    let r := encodeUpTo f o.queued e k
    (r.1, { o with encoder := r.2.1, queued := r.2.2 })

/-- How many of `n` events the transport will take now (R49). -/
def State.allowance (s : State) (n : Nat) : Nat := s.room.getD n

/-- The end of an operation: its one response, after everything it did (R42), `pc + 1` (R25), not busy. -/
def State.finish (s : State) (o : Operation) : State :=
  ((s.appendRsp o.response).setPc (s.pc + 1)).setOp none

/-- The operation in progress goes on as far as the transport takes its TX events; when none is left it ends. While the
transport takes nothing the block stands still (R49, R214). Nothing when the block is not busy. -/
def advance (s : State) : State :=
  match s.op with
  | none => s
  | some o =>
    let r := o.handOver s.params.framing (s.allowance (o.remaining s.params.framing).length)
    if r.2.encoder.isSome then (s.hand r.1).setOp (some r.2) else (s.hand r.1).finish r.2

/-! ### Running an operation -/

/-- An operation as it starts: its operand slots filled (R21), the first of its Commands in the Frame Encoder, the
others queued (R22, R154). -/
def Operation.start (f : Framing) (slots : List Word) (commands : List Command) (st : Status)
    (res : Option ResultWord) : Operation :=
  match commands with
  | [] => { slots := slots, encoder := none, queued := [], status := st, result := res }
  | c :: cs =>
    { slots := slots, encoder := some (Encoder.start f c), queued := cs, status := st, result := res }

/-- An operation is started and runs to completion, or to the event its transport does not take (R41, R49). Meant for a
block that is not busy (log 19). -/
def launch (slots : List Word) (commands : List Command) (st : Status) (res : Option ResultWord) (s : State) : State :=
  advance (s.setOp (some (Operation.start s.params.framing slots commands st res)))

/-- `res <- v`, and the end of the operation (R23). -/
def answer (slots : List Word) (v : Int) (s : State) : Host.Outcome State Fault Refusal :=
  .next (launch slots [] .ok (some (resultWord v)) s)

/-- `EmitCommand` of each Command in turn, and the end of the operation (R122, R126). No operation writes TX but through
this. -/
def send (slots : List Word) (commands : List Command) (s : State) : Host.Outcome State Fault Refusal :=
  .next (launch slots commands .ok none s)

/-- `raise <Fault>`, for every fault (R184): the operation ends with that status before it has had any effect; no TX
event, no ACC read, no result; one response `(code, 0, 0)` and `pc + 1`. There is nothing to save, no mode to change
and no handler; the return from a fault is the next request (R186). -/
def raise (st : Status) (slots : List Word) (s : State) : Host.Outcome State Fault Refusal :=
  .next (launch slots [] st none s)

/-! ### The ACC read -/

/-- What the accelerometer answers to the next read of axis `a`: the first answer it has fixed, and with none fixed a
free value (R46, U9; log 5). -/
def State.reading (s : State) (a : Axis) : Word :=
  match s.accIn with
  | v :: _ => v
  | [] => Config.freeReading s.accLog.length a

/-- `MemRead(ACC, axis)`: the state after the read; `State.reading` is its value (R14, R46). -/
def readAcc (s : State) (a : Axis) : State := (s.logRead a (s.reading a)).setAccIn s.accIn.tail

/-! ### Reset -/

/-- What reset does to the block (R30, R200, R201): not busy, `pc` zero, the REQ words not yet consumed discarded, the
abandoned operation never answered. What has left the block stays, and the parameters and the other agents are not
touched (log 10). -/
def hardReset (s : State) : State := ((s.setOp none).setPc 0).setReq []

end Sys2Proof.Machine
end

