-- ==== Sys2Proof/Machine/FrameEncoder.lean ====
section
/-! DEFINITION. The operation of the Frame Encoder (`42_frame_encoder.md` R125). -/

namespace Sys2Proof.Machine

/-- MIDI_COMMAND (R125): sends one Command made of its operands, as they are; `IllegalRequest` when there are more than
`KMAX` of them (R82). -/
def execMidiCommand (values : List Word) (s : State) : Host.Outcome State Fault Refusal :=
  if values.length > s.params.kmax.val then raise .illegalRequest values s
  else send values [values.map slotValue] s

end Sys2Proof.Machine
end

