-- ==== Sys2Proof/Machine/MessageOps.lean ====
section
/-! DEFINITION. The message operations (`43_message_ops.md` R150 to R156). -/

namespace Sys2Proof.Machine

/-- MIDI_MESSAGE (R150): sends `[channel, Clamp(rawValue)]`; the channel goes out as it is. -/
def execMidiMessage (channel rawValue : Word) (s : State) : Host.Outcome State Fault Refusal :=
  send [channel, rawValue] [[slotValue channel, clamp (slotValue rawValue)]] s

/-- MIDI_SCALED (R151): `InvalidRange` when `from_high = from_low`, before anything is emitted; otherwise sends
`[channel, Clamp(LinearScale(rawValue, ...))]`, the clamp applied to the exact scaled value. -/
def execMidiScaled (channel rawValue fromLow fromHigh toLow toHigh : Word) (s : State) :
    Host.Outcome State Fault Refusal :=
  if slotValue fromHigh = slotValue fromLow then
    raise .invalidRange [channel, rawValue, fromLow, fromHigh, toLow, toHigh] s
  else send [channel, rawValue, fromLow, fromHigh, toLow, toHigh]
    [[slotValue channel, clamp (linearScale (slotValue rawValue) (slotValue fromLow) (slotValue fromHigh)
      (slotValue toLow) (slotValue toHigh))]] s

/-- SWITCH_ON (R152): sends `[channel, 1]`. -/
def execSwitchOn (channel : Word) (s : State) : Host.Outcome State Fault Refusal :=
  send [channel] [[slotValue channel, 1]] s

/-- SWITCH_OFF (R153): sends `[channel, 0]`. -/
def execSwitchOff (channel : Word) (s : State) : Host.Outcome State Fault Refusal :=
  send [channel] [[slotValue channel, 0]] s

/-- TOGGLE (R154): sends `[channel, 1]`, then `[channel, 0]`, in one operation with one response. -/
def execToggle (channel : Word) (s : State) : Host.Outcome State Fault Refusal :=
  send [channel] [[slotValue channel, 1], [slotValue channel, 0]] s

/-- BANG (R155): under the simple framing sends `[channel, 1]`, then `[channel, 0]`; under the checksummed framing
`IllegalRequest` (R84). -/
def execBang (channel : Word) (s : State) : Host.Outcome State Fault Refusal :=
  if s.params.framing ≠ .simple then raise .illegalRequest [channel] s
  else send [channel] [[slotValue channel, 1], [slotValue channel, 0]] s

/-- ACCELERATION (R156): `IllegalRequest` for an axis other than 0, 1, 2, before the sensor is read (R89); otherwise one
ACC read, and `res <- AccelerationScale(reading)`, unclamped. -/
def execAcceleration (axis : Word) (s : State) : Host.Outcome State Fault Refusal :=
  match axisOf axis with
  | none => raise .illegalRequest [axis] s
  | some a => answer [axis] (accelerationScale (slotValue (s.reading a))) (readAcc s a)

end Sys2Proof.Machine
end

