-- ==== Sys2Proof/Machine/ValueScaler.lean ====
section
/-! DEFINITION. The operations of the Value Scaler (`41_value_scaler.md` R103 to R105). -/

namespace Sys2Proof.Machine

/-- CLAMP (R103): `res <- Clamp(x[0])`. -/
def execClamp (value : Word) (s : State) : Host.Outcome State Fault Refusal :=
  answer [value] (clamp (slotValue value)) s

/-- LSCALE (R104): `InvalidRange` when `from_high = from_low`, checked first; otherwise the exact, unclamped map. -/
def execLscale (value fromLow fromHigh toLow toHigh : Word) (s : State) : Host.Outcome State Fault Refusal :=
  if slotValue fromHigh = slotValue fromLow then raise .invalidRange [value, fromLow, fromHigh, toLow, toHigh] s
  else answer [value, fromLow, fromHigh, toLow, toHigh]
    (linearScale (slotValue value) (slotValue fromLow) (slotValue fromHigh) (slotValue toLow) (slotValue toHigh)) s

/-- ASCALE (R105): `res <- AccelerationScale(x[0])`, unclamped. -/
def execAscale (raw : Word) (s : State) : Host.Outcome State Fault Refusal :=
  answer [raw] (accelerationScale (slotValue raw)) s

end Sys2Proof.Machine
end

