-- ==== Sys2Proof/Machine/Dispatch.lean ====
section
/-! DEFINITION. One arm per operation of `30_encoding.md` R80: the meaning of each. -/

namespace Sys2Proof.Machine

def exec (i : Instr) (s : State) : Host.Outcome State Fault Refusal :=
  match i with
  -- The Value Scaler (41_value_scaler.md)
  | .clamp value => Sys2Proof.Machine.execClamp value s
  | .lscale value fromLow fromHigh toLow toHigh => Sys2Proof.Machine.execLscale value fromLow fromHigh toLow toHigh s
  | .ascale raw => Sys2Proof.Machine.execAscale raw s
  -- The Frame Encoder (42_frame_encoder.md)
  | .midiCommand values => Sys2Proof.Machine.execMidiCommand values s
  -- The message operations (43_message_ops.md)
  | .midiMessage channel rawValue => Sys2Proof.Machine.execMidiMessage channel rawValue s
  | .midiScaled channel rawValue fromLow fromHigh toLow toHigh => Sys2Proof.Machine.execMidiScaled channel rawValue fromLow fromHigh toLow toHigh s
  | .switchOn channel => Sys2Proof.Machine.execSwitchOn channel s
  | .switchOff channel => Sys2Proof.Machine.execSwitchOff channel s
  | .toggle channel => Sys2Proof.Machine.execToggle channel s
  | .bang channel => Sys2Proof.Machine.execBang channel s
  | .acceleration axis => Sys2Proof.Machine.execAcceleration axis s

end Sys2Proof.Machine
end

