-- ==== Sys2Proof/Machine/Sequencer.lean ====
section
/-! DEFINITION. What the block does when it moves (`20_memory.md` R41): it goes on with the operation in progress, or
consumes the next request and runs it, or waits; and what each other agent's move does (`00_scope.md` R15). -/

namespace Sys2Proof.Machine

/-- A request is decoded and run; a malformed one raises `IllegalRequest`, its operands never interpreted
(R182, R185). -/
def runRequest (r : Request) (s : State) : Host.Outcome State Fault Refusal :=
  match decode r.header r.operands with
  | .ok i => exec i s
  | .error _ => raise .illegalRequest r.operands s

/-- All `1 + n` words of a request leave REQ, legal or not (R41, R78). -/
def consume (r : Request) (rest : List Word) (s : State) : State := (s.setReq rest).logRequest r

/-- One move of the block (R41). Busy: the operation goes on. Not busy: the request at the front of REQ is consumed and
run; with REQ empty or its first request incomplete the block waits, which has no effect (log 8). -/
def blockMove (s : State) : Host.Outcome State Fault Refusal :=
  match s.op with
  | some _ => .next (advance s)
  | none =>
    match splitRequest s.req with
    | none => .next s
    | some (h, xs, rest) => runRequest ⟨h, xs⟩ (consume ⟨h, xs⟩ rest s)

/-- The transport's room when it takes at most `k` more events. -/
def roomUpTo (k : Nat) : Option Nat → Option Nat
  | none => some k
  | some r => some (min k r)

/-- The transport's room after it has taken `n` events. -/
def roomLess (n : Nat) (r : Option Nat) : Option Nat := r.map (· - n)

/-- Reset inside the block's next move, when `k` more TX events have been handed over: the block moves with a transport
that takes at most `k`, what it has answered in that move never comes out, and the rest of the operation is abandoned
(R201; log 10). -/
def resetInside (k : Nat) (s : State) : Host.Outcome State Fault Refusal :=
  match blockMove (s.setRoom (roomUpTo k s.room)) with
  | .next t => .next (hardReset ((t.setRsp s.rsp).setRoom (roomLess (t.tx.length - s.tx.length) s.room)))
  | .fault r => .fault r
  | .refused r => .refused r

/-- One move of one agent (R15; log 6). -/
def takeTurn (t : Turn) (s : State) : Host.Outcome State Fault Refusal :=
  match t with
  | .block => blockMove s
  | .append ws => .next (s.setReq (s.req ++ ws))
  | .transport r => .next (s.setRoom r)
  | .sense v => .next (s.setAccIn (s.accIn ++ [v]))
  | .reset none => .next (hardReset s)
  | .reset (some k) => resetInside k s

/-- The agent whose turn it is moves; with no turn scheduled it is the block. -/
def move (s : State) : Host.Outcome State Fault Refusal :=
  match s.schedule with
  | [] => blockMove s
  | t :: ts => takeTurn t (s.setSchedule ts)

/-- The state in which the block's next move is the request with the words `ws`: they stand first on REQ, the block is
not busy, and it is the block's turn (log 20). -/
def withRequest (ws : List Word) (s : State) : State := ((s.setReq (ws ++ s.req)).setOp none).setSchedule []

end Sys2Proof.Machine
end

