-- ==== Sys2Proof/Machine/Step.lean ====
section
/-! DEFINITION. One step of the machine: one move of the agent whose turn it is (`00_scope.md` R15, `20_memory.md`
R41). A move of the block runs one request from its consumption to its response, unless the transport stalls it. -/

namespace Sys2Proof.Machine

/-- One step. -/
def step (s : State) : Host.Outcome State Fault Refusal := move s

/-- `s` with the request of `tableWords nbits w` first on REQ and the block about to move, not busy (log 20). -/
def State.withFetchWord (s : State) (nbits w : Nat) : State := withRequest (tableWords nbits w) s

end Sys2Proof.Machine
end

