-- ==== Sys2Proof/Safety.lean ====
section
/-! DEFINITION. What the claims about runs are stated with: when the transport takes a whole operation, what a
completed operation leaves, which status and which Commands the spec gives a request (`30_encoding.md` R80, R88,
`60_exceptions.md` R182, R185), and the invariants of a run. -/

namespace Sys2Proof.Machine

/-- The transport takes `n` more TX events without stalling (R49). -/
def State.takes (s : State) (n : Nat) : Prop := ∀ r, s.room = some r → n ≤ r

/-- The state after an operation that has handed over the events `es` and answered `r`: all that an operation which
neither consumes a request nor reads the sensor can leave (R42, R157). -/
def State.completed (s : State) (es : List TxEvent) (r : Response) : State :=
  { s with op := none, pc := s.pc + 1, tx := s.tx ++ es, rsp := s.rsp ++ [r], room := s.room.map (· - es.length) }

/-- The state after a request has left REQ (R78). -/
def State.consumed (s : State) (r : Request) (rest : List Word) : State :=
  { s with req := rest, reqLog := s.reqLog ++ [r] }

/-- What R182 (a) to (c) says of the header of a malformed request with `n` operand words, as arithmetic on the
header's number: a reserved bit, a reserved opcode, or the wrong operand count. -/
def Malformed (h n : Nat) : Prop :=
  65536 ≤ h ∨
  (h % 256) ∉ [0x01, 0x02, 0x03, 0x10, 0x11, 0x12, 0x13, 0x14, 0x15, 0x16, 0x20] ∨
  ∃ k, (h % 256, k) ∈ [(0x01, 1), (0x02, 5), (0x03, 1), (0x11, 2), (0x12, 6), (0x13, 1), (0x14, 1), (0x15, 1),
    (0x16, 1), (0x20, 1)] ∧ n ≠ k

/-- The status the spec gives an operation: `IllegalRequest` before `InvalidRange` (R181, R182, R185). -/
def expectedStatus (p : Params) (i : Instr) : Status :=
  if i.legal p = false then .illegalRequest
  else if i.degenerate = true then .invalidRange
  else .ok

/-- The Commands an operation sends when its status is OK (the Commands of R125 and R150 to R155; R88). -/
def commandsIfOk : Instr → List Command
  | .clamp _ | .lscale _ _ _ _ _ | .ascale _ | .acceleration _ => []
  | .midiCommand vs => [vs.map BitVec.toInt]
  | .midiMessage c r => [[c.toInt, max 0 (min 127 r.toInt)]]
  | .midiScaled c r fl fh tl th =>
    [[c.toInt, max 0 (min 127 (tl.toInt +
      Int.tdiv ((r.toInt - fl.toInt) * (th.toInt - tl.toInt)) (fh.toInt - fl.toInt)))]]
  | .switchOn c => [[c.toInt, 1]]
  | .switchOff c => [[c.toInt, 0]]
  | .toggle c | .bang c => [[c.toInt, 1], [c.toInt, 0]]

/-- The TX events the spec gives an operation: none on a fault, else those of its Commands in order (R53, R184). -/
def expectedTx (p : Params) (i : Instr) : List TxEvent :=
  if expectedStatus p i = .ok then (commandsIfOk i).flatMap (emitCommand p.framing) else []

/-- The status the spec gives a consumed request (R182). -/
def requestStatus (p : Params) (r : Request) : Status :=
  match decode r.header r.operands with
  | .ok i => expectedStatus p i
  | .error _ => .illegalRequest

/-- The TX events the spec gives a consumed request. -/
def requestTx (p : Params) (r : Request) : List TxEvent :=
  match decode r.header r.operands with
  | .ok i => expectedTx p i
  | .error _ => []

/-- What the operation in progress has still to hand over; nothing when the block is not busy. -/
def State.outstanding (s : State) : List TxEvent :=
  match s.op with
  | none => []
  | some o => o.remaining s.params.framing

/-- What the block's next move hands over to a transport that takes everything: the rest of the operation in progress,
or the events of the request at the front of REQ. -/
def State.upcoming (s : State) : List TxEvent :=
  match s.op with
  | some o => o.remaining s.params.framing
  | none =>
    match splitRequest s.req with
    | none => []
    | some (h, xs, _) => requestTx s.params ⟨h, xs⟩

/-! ### Invariants -/

/-- A response as R86 allows it: one of the three codes; a result only with OK; a zero result field without one. -/
def Response.wellFormed (r : Response) : Prop :=
  (r.status = 0x00 ∨ r.status = 0x01 ∨ r.status = 0x02) ∧
  (r.hasResult = true → r.status = 0x00) ∧ (r.hasResult = false → r.result = 0)

/-- Every response on RSP is well formed (R86). -/
def State.ResponsesOk (s : State) : Prop := ∀ r ∈ s.rsp, r.wellFormed

/-- An operation that is in progress between two moves is a sending operation in the middle of a Command: something of
the Command is still to go out and what has gone out is the beginning of it, the accumulator holds its checksum (R24),
its status is OK and it has no result (R29, R184). -/
def Operation.Sending (f : Framing) (o : Operation) : Prop :=
  ∃ e, o.encoder = some e ∧ e.pending ≠ [] ∧ e.pending <:+ emitCommand f e.values ∧
    e.checksum = accumulator f e.values ∧ o.status = .ok ∧ o.result = none

/-- A busy block is sending. -/
def State.BusyOk (s : State) : Prop := ∀ o, s.op = some o → o.Sending s.params.framing

/-- No reset lies ahead in the schedule. -/
def State.noReset (s : State) : Prop := ∀ t ∈ s.schedule, ∀ k, t ≠ Turn.reset k

/-- A run without a reset does what the spec gives for the requests consumed: TX, with what the operation in progress
has still to hand over, is the concatenation in request order of the events the rules give (R53); the statuses
answered, with the one still to come, are theirs in order (R42); `pc` counts the responses (R25). -/
def State.Faithful (s : State) : Prop :=
  s.noReset ∧
  s.tx ++ s.outstanding = s.reqLog.flatMap (requestTx s.params) ∧
  s.rsp.map Response.status ++ s.op.toList.map (fun o => o.status.code)
    = s.reqLog.map (fun r => (requestStatus s.params r).code) ∧
  s.pc = s.rsp.length

end Sys2Proof.Machine
end

