-- ==== Sys2Proof/Certificates/Slice0/Obligations.lean ====
section
/-! DEFINITION. The statements for the provers. Each docstring names the rule of `spec/` it formalises. A statement about
a move of the block is made of a block that is not busy (`s.op = none`), which is when a request is run (`20_memory.md`
R41); what a busy block does has statements of its own. -/

open Sys2Proof Sys2Proof.Machine

/-! ### Requests: encoding and decoding -/

/-- R76 to R78, R80: decoding the words of a well-formed request, whatever follows them on REQ, gives it back with every
operand, and leaves what follows. -/
def Obligations.DecodeEncodeRoundTrip : Prop :=
  ∀ (i : Instr) (rest : List Word), i.wellFormed = true →
    splitRequest (encode i ++ rest) = some (i.header, i.operands, rest) ∧ decode i.header i.operands = .ok i

/-- R76 to R78: each word has one meaning: what decodes to an instruction is the words of that instruction. -/
def Obligations.DecodedWordsAreTheEncoding : Prop :=
  ∀ (ws : List Word) (h : Word) (xs rest : List Word) (i : Instr),
    splitRequest ws = some (h, xs, rest) → decode h xs = .ok i → ws = encode i ++ rest ∧ i.wellFormed = true

/-- R80: the decoder accepts a header word exactly when it matches a row of `opcode_table.json` under the row's mask, and
then gives the row's operation. -/
def Obligations.DecoderFollowsOpcodeTable : Prop :=
  ∀ (h : Word) (xs : List Word), xs.length = countField h →
    ((∃ i, decode h xs = .ok i) ↔ ∃ r ∈ opcodeTable, h &&& r.mask = r.pattern) ∧
    (∀ r ∈ opcodeTable, h &&& r.mask = r.pattern → ∃ i, decode h xs = .ok i ∧ i.mnemonic = r.mnemonic)

/-- Words of `95_test_vectors.md` sections 2.1 to 2.6 decode to the requests listed there. -/
def Obligations.SpecWordsDecode : Prop :=
  decode 0x00000101 [0xFFFFFFFF] = .ok (.clamp (-1)) ∧
  decode 0x00000502 [0x32, 0, 0x64, 0, 0x7F] = .ok (.lscale 50 0 100 0 127) ∧
  decode 0x00000103 [0x200] = .ok (.ascale 512) ∧
  decode 0x00000010 [] = .ok (.midiCommand []) ∧
  decode 0x00000211 [5, 0xFFFFFFF9] = .ok (.midiMessage 5 (-7)) ∧
  decode 0x00000115 [3] = .ok (.toggle 3) ∧
  decode 0x00000120 [2] = .ok (.acceleration 2)

/-- R78: a complete request leaves REQ as `1 + n` words, `n` the header's bits `[15:8]`, whatever its opcode and its
other bits; while REQ does not hold all of it, nothing happens (R41). -/
def Obligations.RequestLengthFromHeaderAlone : Prop :=
  ∀ (s : State) (h : Word) (ws : List Word), s.schedule = [] → s.op = none → s.req = h :: ws →
    (h.toNat / 256 % 256 ≤ ws.length →
      ∃ t, step s = .next t ∧ t.req = s.req.drop (1 + h.toNat / 256 % 256) ∧
        t.reqLog = s.reqLog ++ [⟨h, ws.take (h.toNat / 256 % 256)⟩]) ∧
    (ws.length < h.toNat / 256 % 256 → step s = .next s)

/-- R41: a step runs the request that stands first on REQ: it is `exec` of that request on the state it has been
consumed from, with an empty schedule and in a scheduled turn of the block. -/
def Obligations.StepRunsDecodedRequest : Prop :=
  ∀ (i : Instr) (s : State) (rest : List Word), i.wellFormed = true → s.op = none → s.req = encode i ++ rest →
    (s.schedule = [] → step s = exec i (s.consumed ⟨i.header, i.operands⟩ rest)) ∧
    (∀ ts, s.schedule = .block :: ts →
      step s = exec i ({ s with schedule := ts }.consumed ⟨i.header, i.operands⟩ rest))

/-! ### Malformed and illegal requests -/

/-- R81: a complete request with a reserved opcode answers `IllegalRequest`, is consumed whole and does nothing else. -/
def Obligations.ReservedOpcodeIsIllegal : Prop :=
  ∀ (s : State) (h : Word) (xs rest : List Word), s.schedule = [] → s.op = none → s.req = h :: (xs ++ rest) →
    xs.length = h.toNat / 256 % 256 →
    (h.toNat % 256 = 0x00 ∨ (0x04 ≤ h.toNat % 256 ∧ h.toNat % 256 ≤ 0x0F) ∨
      (0x17 ≤ h.toNat % 256 ∧ h.toNat % 256 ≤ 0x1F) ∨ (0x21 ≤ h.toNat % 256 ∧ h.toNat % 256 ≤ 0xFF)) →
    step s = .next ((s.consumed ⟨h, xs⟩ rest).completed [] ⟨0x02, false, 0⟩)

/-- R82: a wrong operand count answers `IllegalRequest`, as does a MIDI_COMMAND with more than `KMAX` values; every count
up to `KMAX` selects MIDI_COMMAND. -/
def Obligations.WrongOperandCountIsIllegal : Prop :=
  ∀ (s : State) (h : Word) (xs rest : List Word), s.schedule = [] → s.op = none → s.req = h :: (xs ++ rest) →
    xs.length = h.toNat / 256 % 256 →
    (∀ n, (h.toNat % 256, n) ∈ [(0x01, 1), (0x02, 5), (0x03, 1), (0x11, 2), (0x12, 6), (0x13, 1), (0x14, 1), (0x15, 1),
        (0x16, 1), (0x20, 1)] → xs.length ≠ n →
      step s = .next ((s.consumed ⟨h, xs⟩ rest).completed [] ⟨0x02, false, 0⟩)) ∧
    (h.toNat % 256 = 0x10 → s.params.kmax.val < xs.length →
      step s = .next ((s.consumed ⟨h, xs⟩ rest).completed [] ⟨0x02, false, 0⟩)) ∧
    (h.toNat < 65536 → h.toNat % 256 = 0x10 → xs.length ≤ s.params.kmax.val →
      requestStatus s.params ⟨h, xs⟩ = .ok ∧ step s = exec (.midiCommand xs) (s.consumed ⟨h, xs⟩ rest))

/-- R83: a header word with any of bits `[31:16]` set answers `IllegalRequest`, whatever its opcode. -/
def Obligations.ReservedBitsAreIllegal : Prop :=
  ∀ (s : State) (h : Word) (xs rest : List Word), s.schedule = [] → s.op = none → s.req = h :: (xs ++ rest) →
    xs.length = h.toNat / 256 % 256 → 65536 ≤ h.toNat →
    step s = .next ((s.consumed ⟨h, xs⟩ rest).completed [] ⟨0x02, false, 0⟩)

/-- R181, R182, R185: which status every complete request gets, from the arithmetic of its header, the parameters and its
operands: `IllegalRequest` exactly for the malformed and the illegal ones, `InvalidRange` exactly for the other ones
with a degenerate source range, and OK for the rest. The status is answered in the step, a faulting one without a result,
or, where the transport stalls, it is the one the operation in progress will answer, and then it is OK. -/
def Obligations.StatusOfEveryRequest : Prop :=
  ∀ (s : State) (h : Word) (xs rest : List Word), s.schedule = [] → s.op = none →
    s.req = h :: (xs ++ rest) → xs.length = h.toNat / 256 % 256 →
    ∃ t code, step s = .next t ∧
      ((t.op = none ∧ ∃ r, t.rsp = s.rsp ++ [r] ∧ r.status = code ∧ (code ≠ 0x00 → r = ⟨code, false, 0⟩)) ∨
        (t.rsp = s.rsp ∧ code = 0x00 ∧ ∃ o, t.op = some o ∧ o.status.code = code)) ∧
      (Malformed h.toNat xs.length → code = 0x02) ∧
      (¬ Malformed h.toNat xs.length → ∃ i, decode h xs = .ok i ∧
        (i.legal s.params = false → code = 0x02) ∧
        (i.legal s.params = true → i.degenerate = true → code = 0x01) ∧
        (i.legal s.params = true → i.degenerate = false → code = 0x00))

/-- R184: a request that faults, malformed or not, whatever the transport does: it is consumed whole, gets one response
`(code, 0, 0)`, `pc` advances, and nothing else changes. -/
def Obligations.FaultLeavesNoTrace : Prop :=
  ∀ (s : State) (h : Word) (xs rest : List Word), s.schedule = [] → s.op = none →
    splitRequest s.req = some (h, xs, rest) → requestStatus s.params ⟨h, xs⟩ ≠ .ok →
    step s = .next ((s.consumed ⟨h, xs⟩ rest).completed [] ⟨(requestStatus s.params ⟨h, xs⟩).code, false, 0⟩)

/-- R84, R155: BANG under the checksummed framing answers `IllegalRequest` and emits nothing; under the simple framing
it sends `[channel, 1]`, then `[channel, 0]`. -/
def Obligations.BangBySetting : Prop :=
  ∀ (c : Word) (s : State), s.op = none →
    (s.params.framing = .checksummed → exec (.bang c) s = .next (s.completed [] ⟨0x02, false, 0⟩)) ∧
    (s.params.framing = .simple →
      s.takes (emitCommand .simple [c.toInt, 1] ++ emitCommand .simple [c.toInt, 0]).length →
      exec (.bang c) s =
        .next (s.completed (emitCommand .simple [c.toInt, 1] ++ emitCommand .simple [c.toInt, 0]) ⟨0x00, false, 0⟩))

/-! ### The Value Scaler -/

/-- R100 and section 2 of `41_value_scaler.md`: CLAMP answers its operand saturated to `[0, 127]`; the function is
idempotent and monotone, and leaves `[0, 127]` alone. -/
def Obligations.ClampResult : Prop :=
  (∀ (w : Word) (s : State), s.op = none →
    exec (.clamp w) s = .next (s.completed [] ⟨0x00, true,
      BitVec.ofInt 66 (if w.toInt < 0 then 0 else if w.toInt > 127 then 127 else w.toInt)⟩)) ∧
  (∀ v : Int, 0 ≤ clamp v ∧ clamp v ≤ 127 ∧ clamp (clamp v) = clamp v ∧ (0 ≤ v → v ≤ 127 → clamp v = v)) ∧
  (∀ u v : Int, u ≤ v → clamp u ≤ clamp v)

/-- Section 2 of `41_value_scaler.md`: LSCALE answers the exact, unclamped map, the quotient rounded toward zero; with
`from_high = from_low` it answers `InvalidRange` and no result. -/
def Obligations.LscaleResult : Prop :=
  ∀ (v fl fh tl th : Word) (s : State), s.op = none →
    (fh ≠ fl → exec (.lscale v fl fh tl th) s = .next (s.completed [] ⟨0x00, true, BitVec.ofInt 66
      (tl.toInt + Int.tdiv ((v.toInt - fl.toInt) * (th.toInt - tl.toInt)) (fh.toInt - fl.toInt))⟩)) ∧
    (fh = fl → exec (.lscale v fl fh tl th) s = .next (s.completed [] ⟨0x01, false, 0⟩))

/-- Section 2 of `41_value_scaler.md`: ASCALE answers `tdiv((raw + 1024) * 127, 2048)`, unclamped. -/
def Obligations.AscaleResult : Prop :=
  ∀ (w : Word) (s : State), s.op = none →
    exec (.ascale w) s =
      .next (s.completed [] ⟨0x00, true, BitVec.ofInt 66 (Int.tdiv ((w.toInt + 1024) * 127) 2048)⟩)

/-- R111: the division at every sign combination, its error and its symmetries; the block's own function agrees. -/
def Obligations.TruncatingDivisionLaws : Prop :=
  ∀ a b : Int, b ≠ 0 →
    (0 < a → 0 < b → tdiv a b = Int.fdiv a b) ∧ (a < 0 → 0 < b → tdiv a b = - Int.fdiv (-a) b) ∧
    (0 < a → b < 0 → tdiv a b = - Int.fdiv a (-b)) ∧ (a < 0 → b < 0 → tdiv a b = Int.fdiv (-a) (-b)) ∧
    (a = 0 → tdiv a b = 0) ∧
    (tdiv a b * b - a).natAbs < b.natAbs ∧ (tdiv a b * b).natAbs ≤ a.natAbs ∧
    tdiv (-a) b = - tdiv a b ∧ tdiv a (-b) = - tdiv a b

/-- R113: the end points are exact; the map is monotone, increasing when the ranges run the same way, decreasing when
they run opposite ways, constant for a degenerate destination. -/
def Obligations.LinearScaleEndPointsAndMonotone : Prop :=
  ∀ fl fh tl th : Int, fh ≠ fl →
    linearScale fl fl fh tl th = tl ∧ linearScale fh fl fh tl th = th ∧
    ∀ u v : Int, u ≤ v →
      ((0 < (th - tl) * (fh - fl)) → linearScale u fl fh tl th ≤ linearScale v fl fh tl th) ∧
      (((th - tl) * (fh - fl) < 0) → linearScale v fl fh tl th ≤ linearScale u fl fh tl th) ∧
      (th = tl → linearScale u fl fh tl th = linearScale v fl fh tl th)

/-- R114: the 66-bit result field holds every result exactly. -/
def Obligations.ResultFieldHoldsEveryResult : Prop :=
  (∀ v fl fh tl th : Word, fh ≠ fl →
    (linearScale v.toInt fl.toInt fh.toInt tl.toInt th.toInt).natAbs < 2 ^ 65 ∧
    (resultWord (linearScale v.toInt fl.toInt fh.toInt tl.toInt th.toInt)).toInt =
      linearScale v.toInt fl.toInt fh.toInt tl.toInt th.toInt) ∧
  (∀ r : Word, (accelerationScale r.toInt).natAbs < 2 ^ 39 ∧
    (resultWord (accelerationScale r.toInt)).toInt = accelerationScale r.toInt) ∧
  (∀ v : Word, 0 ≤ (resultWord (clamp v.toInt)).toInt ∧ (resultWord (clamp v.toInt)).toInt ≤ 127 ∧
    (resultWord (clamp v.toInt)).toInt = clamp v.toInt)

/-- Section 2 of `41_value_scaler.md`: the frame of CLAMP, LSCALE and ASCALE: no channel but RSP, one response, `pc + 1`,
whatever the operands and the transport. -/
def Obligations.ScalerFrame : Prop :=
  ∀ (i : Instr) (s t : State), ((∃ v, i = .clamp v) ∨ (∃ v fl fh tl th, i = .lscale v fl fh tl th) ∨ (∃ r, i = .ascale r)) →
    s.op = none → exec i s = .next t →
    t.params = s.params ∧ t.op = none ∧ t.req = s.req ∧ t.reqLog = s.reqLog ∧ t.tx = s.tx ∧ t.accLog = s.accLog ∧
    t.accIn = s.accIn ∧ t.room = s.room ∧ t.schedule = s.schedule ∧ t.pc = s.pc + 1 ∧
    ∃ r, t.rsp = s.rsp ++ [r]

/-! ### The Frame Encoder -/

/-- R65: the decimal rendering: `0` for zero; for a positive number its digits in base ten, most significant first (they
evaluate to it), the first not `0`; a minus sign before the magnitude of a negative one; 1 to 11 bytes for a word. -/
def Obligations.DecimalRendering : Prop :=
  dec 0 = [0x30] ∧
  (∀ v : Int, 0 < v →
    (∀ b ∈ dec v, 0x30 ≤ b.toNat ∧ b.toNat ≤ 0x39) ∧ (∀ b, (dec v).head? = some b → b ≠ 0x30) ∧
    (dec v).foldl (fun (acc : Int) b => 10 * acc + ((b.toNat : Int) - 0x30)) 0 = v) ∧
  (∀ v : Int, v < 0 → dec v = 0x2D :: dec (-v)) ∧
  (∀ w : Word, 1 ≤ (dec w.toInt).length ∧ (dec w.toInt).length ≤ 11)

/-- R69: no escaping: inside a field there are only digits and the minus sign, so neither a delimiter, nor the
terminator, nor a header byte can occur there. -/
def Obligations.FieldsNeedNoEscaping : Prop :=
  ∀ (v : Int) (b : Byte), b ∈ dec v →
    (b = 0x2D ∨ (0x30 ≤ b.toNat ∧ b.toNat ≤ 0x39)) ∧
    b ≠ 0x3C ∧ b ≠ 0x3E ∧ b ≠ 0x5E ∧ b ≠ 0x2A ∧ b ≠ 0x2B

/-- R121, R112: the checksum is the sum modulo 128, in `[0, 127]` for every Command, zero for the empty one. -/
def Obligations.ChecksumResidue : Prop :=
  (∀ vs : Command, 0 ≤ checksum vs ∧ checksum vs ≤ 127 ∧ (128 : Int) ∣ vs.foldl (· + ·) 0 - checksum vs) ∧
  checksum [] = 0

/-- R128: the checksum is the low seven bits of the sum accumulated, wrapping, in a register of any width of seven bits
or more. -/
def Obligations.ChecksumNeedsSevenBits : Prop :=
  ∀ (width : Nat), 7 ≤ width → ∀ vs : Command,
    (((vs.foldl (fun (acc : BitVec width) v => acc + BitVec.ofInt width v) 0).setWidth 7).toNat : Int) = checksum vs

/-- Section 2 of `42_frame_encoder.md`, under the checksummed framing: MIDI_COMMAND with at most `KMAX` operands appends
exactly the frame of its operands, unclamped, and answers `(OK, 0, 0)`. -/
def Obligations.MidiCommandChecksummed : Prop :=
  ∀ (ws : List Word) (s : State) (bytes : List Byte), s.op = none → s.params.framing = .checksummed →
    ws.length ≤ s.params.kmax.val →
    bytes = [0x2A, 0x2B] ++ ([0x3C] ++ dec ws.length ++ [0x3E]) ++
      (ws.map fun w => [0x3C] ++ dec w.toInt ++ [0x3E]).flatten ++
      ([0x3C] ++ dec ((ws.map BitVec.toInt).sum % 128) ++ [0x3E]) ++ [0x5E] →
    s.takes bytes.length →
    exec (.midiCommand ws) s = .next (s.completed (bytes.map TxEvent.byte) ⟨0x00, false, 0⟩)

/-- R62, R124: under the simple framing the same operation appends one unit per operand, a `GAP` after each, the last one
included, and nothing for the empty Command. -/
def Obligations.MidiCommandSimple : Prop :=
  ∀ (ws : List Word) (s : State) (events : List TxEvent), s.op = none → s.params.framing = .simple →
    ws.length ≤ s.params.kmax.val →
    events = (ws.map fun w => .byte 0x53 :: ((dec w.toInt).map TxEvent.byte ++ [.byte 0x45, .gap])).flatten →
    s.takes events.length →
    exec (.midiCommand ws) s = .next (s.completed events ⟨0x00, false, 0⟩)

/-- R68, R211: the length of a frame, its shortest (only the empty Command's, nine bytes) and, for words and at most 255 of
them, its longest; the terminator stands at its end and nowhere else. -/
def Obligations.FrameLength : Prop :=
  (∀ vs : Command,
    (frame vs).length = 2 + (2 + (dec vs.length).length) + (vs.map fun v => 2 + (dec v).length).sum
      + (2 + (dec (checksum vs)).length) + 1 ∧
    9 ≤ (frame vs).length ∧ ((frame vs).length = 9 ↔ vs = []) ∧
    (∃ body, frame vs = body ++ [0x5E] ∧ (0x5E : Byte) ∉ body)) ∧
  (∀ ws : List Word, ws.length ≤ 255 → (frame (ws.map BitVec.toInt)).length ≤ 3328)

/-- R68, R129: frames are self-delimiting: a sequence of frames can be cut into Commands in one way only. -/
def Obligations.FramesAreUniquelyReadable : Prop :=
  ∀ cs ds : List Command, cs.flatMap frame = ds.flatMap frame → cs = ds

/-! ### The message operations -/

/-- Section 1 of `43_message_ops.md`: MIDI_MESSAGE sends `[channel, Clamp(rawValue)]`, the channel as it is. -/
def Obligations.MidiMessageSendsClamped : Prop :=
  ∀ (c r : Word) (s : State) (cmd : Command), s.op = none →
    cmd = [c.toInt, if r.toInt < 0 then 0 else if r.toInt > 127 then 127 else r.toInt] →
    s.takes (emitCommand s.params.framing cmd).length →
    exec (.midiMessage c r) s = .next (s.completed (emitCommand s.params.framing cmd) ⟨0x00, false, 0⟩)

/-- Section 1 of `43_message_ops.md`: MIDI_SCALED sends `[channel, Clamp(scaled)]`, the clamp applied to the exact scaled
value; with `from_high = from_low` it answers `InvalidRange` and emits nothing. -/
def Obligations.MidiScaledSendsScaledClamped : Prop :=
  ∀ (c r fl fh tl th : Word) (s : State) (scaled : Int) (cmd : Command), s.op = none →
    scaled = tl.toInt + Int.tdiv ((r.toInt - fl.toInt) * (th.toInt - tl.toInt)) (fh.toInt - fl.toInt) →
    cmd = [c.toInt, if scaled < 0 then 0 else if scaled > 127 then 127 else scaled] →
    (fh ≠ fl → s.takes (emitCommand s.params.framing cmd).length →
      exec (.midiScaled c r fl fh tl th) s =
        .next (s.completed (emitCommand s.params.framing cmd) ⟨0x00, false, 0⟩)) ∧
    (fh = fl → exec (.midiScaled c r fl fh tl th) s = .next (s.completed [] ⟨0x01, false, 0⟩))

/-- Section 1 of `43_message_ops.md`: SWITCH_ON sends `[channel, 1]` and SWITCH_OFF sends `[channel, 0]`. -/
def Obligations.SwitchOnAndOff : Prop :=
  ∀ (c : Word) (s : State), s.op = none →
    (s.takes (emitCommand s.params.framing [c.toInt, 1]).length →
      exec (.switchOn c) s = .next (s.completed (emitCommand s.params.framing [c.toInt, 1]) ⟨0x00, false, 0⟩)) ∧
    (s.takes (emitCommand s.params.framing [c.toInt, 0]).length →
      exec (.switchOff c) s = .next (s.completed (emitCommand s.params.framing [c.toInt, 0]) ⟨0x00, false, 0⟩))

/-- Section 1 of `43_message_ops.md`: TOGGLE sends `[channel, 1]` and then `[channel, 0]`, with nothing between them and
one response. -/
def Obligations.ToggleSendsOnThenOff : Prop :=
  ∀ (c : Word) (s : State), s.op = none →
    s.takes (emitCommand s.params.framing [c.toInt, 1] ++ emitCommand s.params.framing [c.toInt, 0]).length →
    exec (.toggle c) s = .next (s.completed
      (emitCommand s.params.framing [c.toInt, 1] ++ emitCommand s.params.framing [c.toInt, 0]) ⟨0x00, false, 0⟩)

/-- R89 and section 2 of `43_message_ops.md`: ACCELERATION with axis 0, 1, 2 makes exactly one read, of X, Y, Z, and
answers the reading scaled, unclamped; the reading is the answer the accelerometer has fixed, and any word when it has
fixed none. Any other axis answers `IllegalRequest` and reads nothing. -/
def Obligations.AccelerationReadsOneAxis : Prop :=
  ∀ (w : Word) (s : State), s.op = none →
    (∀ a, (w, a) ∈ [((0 : Word), Axis.x), (1, Axis.y), (2, Axis.z)] →
      ∃ v : Word, (∀ u us, s.accIn = u :: us → v = u) ∧
        exec (.acceleration w) s =
          .next ({ s with accIn := s.accIn.tail, accLog := s.accLog ++ [(a, v)] }.completed []
            ⟨0x00, true, BitVec.ofInt 66 (Int.tdiv ((v.toInt + 1024) * 127) 2048)⟩)) ∧
    (w ≠ 0 → w ≠ 1 → w ≠ 2 → exec (.acceleration w) s = .next (s.completed [] ⟨0x02, false, 0⟩))

/-- Section 2 of `43_message_ops.md`: a reading in the nominal range gives a result in `[0, 127]`. -/
def Obligations.NominalReadingGivesPayload : Prop :=
  ∀ r : Int, -1024 ≤ r → r ≤ 1024 → 0 ≤ accelerationScale r ∧ accelerationScale r ≤ 127

/-- R88: the expansions of the message operations, as equalities of what is appended to TX, when `KMAX` admits the
Command `[channel, value]`; and ASCALE is LSCALE from `[-1024, 1024]` to `[0, 127]`. -/
def Obligations.PseudoOperationExpansions : Prop :=
  ∀ (s : State) (c r fl fh tl th : Word), s.op = none → s.room = none → 2 ≤ s.params.kmax.val →
    (∃ t u, exec (.midiMessage c r) s = .next t ∧
      exec (.midiCommand [c, BitVec.ofInt 32 (clamp r.toInt)]) s = .next u ∧ t = u) ∧
    (fh ≠ fl → ∃ t u, exec (.midiScaled c r fl fh tl th) s = .next t ∧
      exec (.midiCommand
        [c, BitVec.ofInt 32 (clamp (linearScale r.toInt fl.toInt fh.toInt tl.toInt th.toInt))]) s = .next u ∧ t = u) ∧
    (∃ t u, exec (.switchOn c) s = .next t ∧ exec (.midiCommand [c, 1]) s = .next u ∧ t = u) ∧
    (∃ t u, exec (.switchOff c) s = .next t ∧ exec (.midiCommand [c, 0]) s = .next u ∧ t = u) ∧
    (∃ t u v, exec (.toggle c) s = .next t ∧ exec (.midiCommand [c, 1]) s = .next u ∧
      exec (.midiCommand [c, 0]) u = .next v ∧ t.tx = v.tx) ∧
    (s.params.framing = .simple → ∃ t u v, exec (.bang c) s = .next t ∧ exec (.midiCommand [c, 1]) s = .next u ∧
      exec (.midiCommand [c, 0]) u = .next v ∧ t.tx = v.tx) ∧
    (∃ t u, exec (.ascale r) s = .next t ∧
      exec (.lscale r (BitVec.ofInt 32 (-1024)) 1024 0 127) s = .next u ∧ t = u)

/-- R157: what a request appends to TX and answers depends on its operands, the parameters and, for ACCELERATION, the one
reading alone: two idle machines that agree on these, however their histories differ, do the same. -/
def Obligations.NoOperationRemembers : Prop :=
  ∀ (i : Instr) (s₁ s₂ : State), s₁.op = none → s₂.op = none → s₁.room = none → s₂.room = none →
    s₁.params = s₂.params → ((∃ w, i = .acceleration w) → ∀ a, s₁.reading a = s₂.reading a) →
    ∃ es r t₁ t₂, exec i s₁ = .next t₁ ∧ exec i s₂ = .next t₂ ∧
      t₁.tx = s₁.tx ++ es ∧ t₂.tx = s₂.tx ++ es ∧ t₁.rsp = s₁.rsp ++ [r] ∧ t₂.rsp = s₂.rsp ++ [r] ∧
      t₁.op = none ∧ t₂.op = none

/-- The frame of the sending operations (sections 2 of `42_frame_encoder.md` and 1 of `43_message_ops.md`), completing or
stalled: a beginning of the events the spec gives is appended to TX, the whole of it exactly when the one response is
given; ACC, REQ and the parameters are untouched. -/
def Obligations.SendingFrame : Prop :=
  ∀ (i : Instr) (s t : State),
    ((∃ vs, i = .midiCommand vs) ∨ (∃ c r, i = .midiMessage c r) ∨
      (∃ c r fl fh tl th, i = .midiScaled c r fl fh tl th) ∨ (∃ c, i = .switchOn c) ∨ (∃ c, i = .switchOff c) ∨
      (∃ c, i = .toggle c) ∨ (∃ c, i = .bang c)) →
    s.op = none → exec i s = .next t →
    t.params = s.params ∧ t.req = s.req ∧ t.reqLog = s.reqLog ∧ t.accLog = s.accLog ∧ t.accIn = s.accIn ∧
    t.schedule = s.schedule ∧
    ∃ sent rest, sent ++ rest = expectedTx s.params i ∧ t.tx = s.tx ++ sent ∧ t.outstanding = rest ∧
      t.room = s.room.map (· - sent.length) ∧
      ((t.op = none ∧ rest = [] ∧ t.pc = s.pc + 1 ∧ ∃ r, t.rsp = s.rsp ++ [r]) ∨
       (t.op ≠ none ∧ rest ≠ [] ∧ t.pc = s.pc ∧ t.rsp = s.rsp))

/-- The frame of ACCELERATION (section 2 of `43_message_ops.md`): RSP gets one response and ACC at most one read; TX, REQ
and everything else are untouched. -/
def Obligations.AccelerationFrame : Prop :=
  ∀ (w : Word) (s t : State), s.op = none → exec (.acceleration w) s = .next t →
    t.params = s.params ∧ t.op = none ∧ t.req = s.req ∧ t.reqLog = s.reqLog ∧ t.tx = s.tx ∧ t.room = s.room ∧
    t.schedule = s.schedule ∧ t.pc = s.pc + 1 ∧ (∃ r, t.rsp = s.rsp ++ [r]) ∧
    ((t.accLog = s.accLog ∧ t.accIn = s.accIn) ∨
      ((w = 0 ∨ w = 1 ∨ w = 2) ∧ t.accIn = s.accIn.tail ∧ ∃ a v, t.accLog = s.accLog ++ [(a, v)]))

/-! ### Backpressure -/

/-- R49, R29: a transport that stalls after `k` events holds the operation there: exactly the first `k` events are on TX,
the block is busy with the rest, and no response is given. -/
def Obligations.StalledSendHoldsItsPlace : Prop :=
  ∀ (i : Instr) (s : State) (k : Nat), s.op = none → s.room = some k → k < (expectedTx s.params i).length →
    ∃ o, exec i s =
        .next { s with op := some o, tx := s.tx ++ (expectedTx s.params i).take k, room := some 0 } ∧
      o.remaining s.params.framing = (expectedTx s.params i).drop k ∧
      o.slots = i.operands ∧ o.status = .ok ∧ o.result = none

/-- R214, R49: while the transport takes nothing, a block with something to hand over does not move: the step changes
nothing, however often it is taken. -/
def Obligations.StalledTransportHangsTheBlock : Prop :=
  ∀ (s : State), s.schedule = [] → s.BusyOk → s.op ≠ none → s.room = some 0 →
    step s = .next s ∧ ∀ n, core.run n s = .next s

/-- R44, R50: a stall changes nothing in the end: an operation held after any number of events and then let go on appends
the same events and gives the same response as without the stall. -/
def Obligations.StallDoesNotChangeTheOutcome : Prop :=
  ∀ (i : Instr) (s : State) (k : Nat), s.schedule = [] → s.op = none → s.room = none →
    ∃ t u, exec i { s with room := some k } = .next t ∧ exec i s = .next u ∧
      (t.op = none → { t with room := none } = u) ∧ (t.op ≠ none → step { t with room := none } = .next u)

/-- R41, R213: a busy block accepts nothing: its move takes no word of REQ and makes no ACC read, and its TX grows by the
next events of the operation in progress only. -/
def Obligations.BusyBlockAcceptsNothing : Prop :=
  ∀ (s : State) (o : Operation), s.schedule = [] → s.op = some o →
    ∃ t, step s = .next t ∧ t.req = s.req ∧ t.reqLog = s.reqLog ∧ t.accLog = s.accLog ∧ t.accIn = s.accIn ∧
      t.params = s.params ∧
      ∃ sent, t.tx = s.tx ++ sent ∧ sent ++ t.outstanding = o.remaining s.params.framing ∧
        ((t.op = none ∧ t.rsp = s.rsp ++ [o.response] ∧ t.pc = s.pc + 1) ∨
          (t.op ≠ none ∧ t.rsp = s.rsp ∧ t.pc = s.pc))

/-! ### Reset -/

/-- R30 and, for REQ, R201: the state after the first reset, and what a later reset leaves: the block not busy, `pc` zero,
REQ empty; the histories and the parameters as they were. The turn that asserts the later reset, and that it leaves the
other agents' `accIn`, `room` and `schedule` alone, are the model's choice (log 6, log 10). -/
def Obligations.ResetValues : Prop :=
  (State.reset.op = none ∧ State.reset.pc = 0 ∧ State.reset.req = [] ∧ State.reset.reqLog = [] ∧
    State.reset.rsp = [] ∧ State.reset.tx = [] ∧ State.reset.accLog = [] ∧
    State.reset.params = { framing := .checksummed, kmax := 255 }) ∧
  (∀ (s : State) (ts : List Turn), s.schedule = .reset none :: ts →
    step s = .next { s with op := none, pc := 0, req := [], schedule := ts })

/-- R201: reset inside an operation, with a transport that does not stall: for every `k`, exactly the first `k` events of
the operation (all of them when there are no more) are on TX and stay there, there is no response, the block is idle
and the words waiting on REQ are gone. -/
def Obligations.ResetCutsAtAnyPoint : Prop :=
  ∀ (s : State) (k : Nat) (ts : List Turn), s.schedule = .reset (some k) :: ts → s.room = none →
    ∃ t, step s = .next t ∧ t.tx = s.tx ++ s.upcoming.take k ∧ t.rsp = s.rsp ∧ t.op = none ∧ t.req = [] ∧ t.pc = 0 ∧
      t.params = s.params ∧ t.room = none ∧ t.schedule = ts

/-! ### Whole-machine rules and invariants -/

/-- R187, R184: nothing stops the machine: every step answers a next state. -/
def Obligations.MachineNeverStops : Prop := ∀ s : State, ∃ t, step s = .next t

/-- R27: no step changes the parameters. -/
def Obligations.ParametersNeverChange : Prop := ∀ s t : State, step s = .next t → t.params = s.params

/-- R51, R30: what has left the block stays: no step, a reset included, takes anything back from a history. -/
def Obligations.HistoriesOnlyGrow : Prop :=
  ∀ s t : State, step s = .next t →
    s.tx <+: t.tx ∧ s.rsp <+: t.rsp ∧ s.reqLog <+: t.reqLog ∧ s.accLog <+: t.accLog

/-- R25, R42: a step that is no reset either gives no response and keeps `pc`, or gives exactly one, advances `pc` by one
and leaves the block idle. -/
def Obligations.OneResponseOnePc : Prop :=
  ∀ s t : State, s.noReset → step s = .next t →
    (t.pc = s.pc ∧ t.rsp = s.rsp) ∨ (t.pc = s.pc + 1 ∧ t.op = none ∧ ∃ r, t.rsp = s.rsp ++ [r])

/-- R46: a step makes at most one ACC read, and only when the request it consumes is an ACCELERATION with a legal axis. -/
def Obligations.OnlyAccelerationReads : Prop :=
  ∀ s t : State, step s = .next t →
    t.accLog = s.accLog ∨
    (∃ a v w h, t.accLog = s.accLog ++ [(a, v)] ∧ t.reqLog = s.reqLog ++ [⟨h, [w]⟩] ∧
      decode h [w] = .ok (.acceleration w) ∧ (w = 0 ∨ w = 1 ∨ w = 2))

/-- R86: every step keeps every response on RSP well formed. -/
def Obligations.StepKeepsResponsesWellFormed : Prop :=
  ∀ s t : State, s.ResponsesOk → step s = .next t → t.ResponsesOk

/-- R22, R24, R29, R184: every step keeps it that a busy block is in the middle of sending a Command, its accumulator
holding the Command's checksum, with status OK and no result. -/
def Obligations.StepKeepsBusyBlockSending : Prop :=
  ∀ s t : State, s.BusyOk → step s = .next t → t.BusyOk

/-- R53, R126, R42, R25: with no reset ahead, every step keeps it that TX (with what is still to be handed over) is the
concatenation, in request order, of the events the rules give for the requests consumed, that the statuses answered
are theirs, and that `pc` counts them. -/
def Obligations.StepKeepsRunFaithful : Prop :=
  ∀ s t : State, s.Faithful → step s = .next t → t.Faithful

/-- The invariants hold at reset (R30). -/
def Obligations.ResetMeetsTheInvariants : Prop :=
  State.reset.ResponsesOk ∧ State.reset.BusyOk ∧ State.reset.Faithful

/-- R126, R53: from reset, requests appended and run in any order of turns without a reset, with any transport: when the
block is idle under the checksummed framing, TX is a concatenation of whole frames. -/
def Obligations.RunsSendWholeFrames : Prop :=
  ∀ (n : Nat) (turns : List Turn) (p : Params) (t : State), p.framing = .checksummed →
    (∀ a ∈ turns, ∀ k, a ≠ Turn.reset k) →
    core.run n { State.reset with schedule := turns, params := p } = .next t → t.op = none →
    ∃ cs : List Command, t.tx = (cs.flatMap frame).map TxEvent.byte

/-- R15: the turns of the other agents do what they name, and nothing else: the requester's words go to the end of REQ
(R41), the transport's room is what it offers (R49), the accelerometer's answer waits behind the ones already fixed
(R46). The turns are the model's choice (log 5, log 6, log 7). -/
def Obligations.OtherAgentsTurnsDoWhatTheyName : Prop :=
  ∀ (s : State) (ts : List Turn),
    (∀ ws, s.schedule = .append ws :: ts → step s = .next { s with req := s.req ++ ws, schedule := ts }) ∧
    (∀ r, s.schedule = .transport r :: ts → step s = .next { s with room := r, schedule := ts }) ∧
    (∀ v, s.schedule = .sense v :: ts → step s = .next { s with accIn := s.accIn ++ [v], schedule := ts })
end

