-- ==== Sys2Proof/Laws/State.lean ====
section
/-! SUPPORT. One lemma per field per update of State, so that no later proof unfolds a record update. -/

namespace Sys2Proof.Machine

@[simp] theorem State.setOp_params (s : State) (o : Option Operation) : (s.setOp o).params = s.params := rfl
@[simp] theorem State.setOp_pc (s : State) (o : Option Operation) : (s.setOp o).pc = s.pc := rfl
@[simp] theorem State.setOp_op (s : State) (o : Option Operation) : (s.setOp o).op = o := rfl
@[simp] theorem State.setOp_req (s : State) (o : Option Operation) : (s.setOp o).req = s.req := rfl
@[simp] theorem State.setOp_reqLog (s : State) (o : Option Operation) : (s.setOp o).reqLog = s.reqLog := rfl
@[simp] theorem State.setOp_rsp (s : State) (o : Option Operation) : (s.setOp o).rsp = s.rsp := rfl
@[simp] theorem State.setOp_tx (s : State) (o : Option Operation) : (s.setOp o).tx = s.tx := rfl
@[simp] theorem State.setOp_accLog (s : State) (o : Option Operation) : (s.setOp o).accLog = s.accLog := rfl
@[simp] theorem State.setOp_accIn (s : State) (o : Option Operation) : (s.setOp o).accIn = s.accIn := rfl
@[simp] theorem State.setOp_room (s : State) (o : Option Operation) : (s.setOp o).room = s.room := rfl
@[simp] theorem State.setOp_schedule (s : State) (o : Option Operation) : (s.setOp o).schedule = s.schedule := rfl

@[simp] theorem State.setReq_params (s : State) (ws : List Word) : (s.setReq ws).params = s.params := rfl
@[simp] theorem State.setReq_pc (s : State) (ws : List Word) : (s.setReq ws).pc = s.pc := rfl
@[simp] theorem State.setReq_op (s : State) (ws : List Word) : (s.setReq ws).op = s.op := rfl
@[simp] theorem State.setReq_req (s : State) (ws : List Word) : (s.setReq ws).req = ws := rfl
@[simp] theorem State.setReq_reqLog (s : State) (ws : List Word) : (s.setReq ws).reqLog = s.reqLog := rfl
@[simp] theorem State.setReq_rsp (s : State) (ws : List Word) : (s.setReq ws).rsp = s.rsp := rfl
@[simp] theorem State.setReq_tx (s : State) (ws : List Word) : (s.setReq ws).tx = s.tx := rfl
@[simp] theorem State.setReq_accLog (s : State) (ws : List Word) : (s.setReq ws).accLog = s.accLog := rfl
@[simp] theorem State.setReq_accIn (s : State) (ws : List Word) : (s.setReq ws).accIn = s.accIn := rfl
@[simp] theorem State.setReq_room (s : State) (ws : List Word) : (s.setReq ws).room = s.room := rfl
@[simp] theorem State.setReq_schedule (s : State) (ws : List Word) : (s.setReq ws).schedule = s.schedule := rfl

@[simp] theorem State.setRoom_params (s : State) (r : Option Nat) : (s.setRoom r).params = s.params := rfl
@[simp] theorem State.setRoom_pc (s : State) (r : Option Nat) : (s.setRoom r).pc = s.pc := rfl
@[simp] theorem State.setRoom_op (s : State) (r : Option Nat) : (s.setRoom r).op = s.op := rfl
@[simp] theorem State.setRoom_req (s : State) (r : Option Nat) : (s.setRoom r).req = s.req := rfl
@[simp] theorem State.setRoom_reqLog (s : State) (r : Option Nat) : (s.setRoom r).reqLog = s.reqLog := rfl
@[simp] theorem State.setRoom_rsp (s : State) (r : Option Nat) : (s.setRoom r).rsp = s.rsp := rfl
@[simp] theorem State.setRoom_tx (s : State) (r : Option Nat) : (s.setRoom r).tx = s.tx := rfl
@[simp] theorem State.setRoom_accLog (s : State) (r : Option Nat) : (s.setRoom r).accLog = s.accLog := rfl
@[simp] theorem State.setRoom_accIn (s : State) (r : Option Nat) : (s.setRoom r).accIn = s.accIn := rfl
@[simp] theorem State.setRoom_room (s : State) (r : Option Nat) : (s.setRoom r).room = r := rfl
@[simp] theorem State.setRoom_schedule (s : State) (r : Option Nat) : (s.setRoom r).schedule = s.schedule := rfl

@[simp] theorem State.setRsp_params (s : State) (rs : List Response) : (s.setRsp rs).params = s.params := rfl
@[simp] theorem State.setRsp_pc (s : State) (rs : List Response) : (s.setRsp rs).pc = s.pc := rfl
@[simp] theorem State.setRsp_op (s : State) (rs : List Response) : (s.setRsp rs).op = s.op := rfl
@[simp] theorem State.setRsp_req (s : State) (rs : List Response) : (s.setRsp rs).req = s.req := rfl
@[simp] theorem State.setRsp_reqLog (s : State) (rs : List Response) : (s.setRsp rs).reqLog = s.reqLog := rfl
@[simp] theorem State.setRsp_rsp (s : State) (rs : List Response) : (s.setRsp rs).rsp = rs := rfl
@[simp] theorem State.setRsp_tx (s : State) (rs : List Response) : (s.setRsp rs).tx = s.tx := rfl
@[simp] theorem State.setRsp_accLog (s : State) (rs : List Response) : (s.setRsp rs).accLog = s.accLog := rfl
@[simp] theorem State.setRsp_accIn (s : State) (rs : List Response) : (s.setRsp rs).accIn = s.accIn := rfl
@[simp] theorem State.setRsp_room (s : State) (rs : List Response) : (s.setRsp rs).room = s.room := rfl
@[simp] theorem State.setRsp_schedule (s : State) (rs : List Response) : (s.setRsp rs).schedule = s.schedule := rfl

@[simp] theorem State.setAccIn_params (s : State) (vs : List Word) : (s.setAccIn vs).params = s.params := rfl
@[simp] theorem State.setAccIn_pc (s : State) (vs : List Word) : (s.setAccIn vs).pc = s.pc := rfl
@[simp] theorem State.setAccIn_op (s : State) (vs : List Word) : (s.setAccIn vs).op = s.op := rfl
@[simp] theorem State.setAccIn_req (s : State) (vs : List Word) : (s.setAccIn vs).req = s.req := rfl
@[simp] theorem State.setAccIn_reqLog (s : State) (vs : List Word) : (s.setAccIn vs).reqLog = s.reqLog := rfl
@[simp] theorem State.setAccIn_rsp (s : State) (vs : List Word) : (s.setAccIn vs).rsp = s.rsp := rfl
@[simp] theorem State.setAccIn_tx (s : State) (vs : List Word) : (s.setAccIn vs).tx = s.tx := rfl
@[simp] theorem State.setAccIn_accLog (s : State) (vs : List Word) : (s.setAccIn vs).accLog = s.accLog := rfl
@[simp] theorem State.setAccIn_accIn (s : State) (vs : List Word) : (s.setAccIn vs).accIn = vs := rfl
@[simp] theorem State.setAccIn_room (s : State) (vs : List Word) : (s.setAccIn vs).room = s.room := rfl
@[simp] theorem State.setAccIn_schedule (s : State) (vs : List Word) : (s.setAccIn vs).schedule = s.schedule := rfl

@[simp] theorem State.setSchedule_params (s : State) (ts : List Turn) : (s.setSchedule ts).params = s.params := rfl
@[simp] theorem State.setSchedule_pc (s : State) (ts : List Turn) : (s.setSchedule ts).pc = s.pc := rfl
@[simp] theorem State.setSchedule_op (s : State) (ts : List Turn) : (s.setSchedule ts).op = s.op := rfl
@[simp] theorem State.setSchedule_req (s : State) (ts : List Turn) : (s.setSchedule ts).req = s.req := rfl
@[simp] theorem State.setSchedule_reqLog (s : State) (ts : List Turn) : (s.setSchedule ts).reqLog = s.reqLog := rfl
@[simp] theorem State.setSchedule_rsp (s : State) (ts : List Turn) : (s.setSchedule ts).rsp = s.rsp := rfl
@[simp] theorem State.setSchedule_tx (s : State) (ts : List Turn) : (s.setSchedule ts).tx = s.tx := rfl
@[simp] theorem State.setSchedule_accLog (s : State) (ts : List Turn) : (s.setSchedule ts).accLog = s.accLog := rfl
@[simp] theorem State.setSchedule_accIn (s : State) (ts : List Turn) : (s.setSchedule ts).accIn = s.accIn := rfl
@[simp] theorem State.setSchedule_room (s : State) (ts : List Turn) : (s.setSchedule ts).room = s.room := rfl
@[simp] theorem State.setSchedule_schedule (s : State) (ts : List Turn) : (s.setSchedule ts).schedule = ts := rfl

@[simp] theorem State.setPc_params (s : State) (n : Nat) : (s.setPc n).params = s.params := rfl
@[simp] theorem State.setPc_pc (s : State) (n : Nat) : (s.setPc n).pc = n := rfl
@[simp] theorem State.setPc_op (s : State) (n : Nat) : (s.setPc n).op = s.op := rfl
@[simp] theorem State.setPc_req (s : State) (n : Nat) : (s.setPc n).req = s.req := rfl
@[simp] theorem State.setPc_reqLog (s : State) (n : Nat) : (s.setPc n).reqLog = s.reqLog := rfl
@[simp] theorem State.setPc_rsp (s : State) (n : Nat) : (s.setPc n).rsp = s.rsp := rfl
@[simp] theorem State.setPc_tx (s : State) (n : Nat) : (s.setPc n).tx = s.tx := rfl
@[simp] theorem State.setPc_accLog (s : State) (n : Nat) : (s.setPc n).accLog = s.accLog := rfl
@[simp] theorem State.setPc_accIn (s : State) (n : Nat) : (s.setPc n).accIn = s.accIn := rfl
@[simp] theorem State.setPc_room (s : State) (n : Nat) : (s.setPc n).room = s.room := rfl
@[simp] theorem State.setPc_schedule (s : State) (n : Nat) : (s.setPc n).schedule = s.schedule := rfl

@[simp] theorem State.logRequest_params (s : State) (r : Request) : (s.logRequest r).params = s.params := rfl
@[simp] theorem State.logRequest_pc (s : State) (r : Request) : (s.logRequest r).pc = s.pc := rfl
@[simp] theorem State.logRequest_op (s : State) (r : Request) : (s.logRequest r).op = s.op := rfl
@[simp] theorem State.logRequest_req (s : State) (r : Request) : (s.logRequest r).req = s.req := rfl
@[simp] theorem State.logRequest_reqLog (s : State) (r : Request) : (s.logRequest r).reqLog = s.reqLog ++ [r] := rfl
@[simp] theorem State.logRequest_rsp (s : State) (r : Request) : (s.logRequest r).rsp = s.rsp := rfl
@[simp] theorem State.logRequest_tx (s : State) (r : Request) : (s.logRequest r).tx = s.tx := rfl
@[simp] theorem State.logRequest_accLog (s : State) (r : Request) : (s.logRequest r).accLog = s.accLog := rfl
@[simp] theorem State.logRequest_accIn (s : State) (r : Request) : (s.logRequest r).accIn = s.accIn := rfl
@[simp] theorem State.logRequest_room (s : State) (r : Request) : (s.logRequest r).room = s.room := rfl
@[simp] theorem State.logRequest_schedule (s : State) (r : Request) : (s.logRequest r).schedule = s.schedule := rfl

@[simp] theorem State.appendRsp_params (s : State) (r : Response) : (s.appendRsp r).params = s.params := rfl
@[simp] theorem State.appendRsp_pc (s : State) (r : Response) : (s.appendRsp r).pc = s.pc := rfl
@[simp] theorem State.appendRsp_op (s : State) (r : Response) : (s.appendRsp r).op = s.op := rfl
@[simp] theorem State.appendRsp_req (s : State) (r : Response) : (s.appendRsp r).req = s.req := rfl
@[simp] theorem State.appendRsp_reqLog (s : State) (r : Response) : (s.appendRsp r).reqLog = s.reqLog := rfl
@[simp] theorem State.appendRsp_rsp (s : State) (r : Response) : (s.appendRsp r).rsp = s.rsp ++ [r] := rfl
@[simp] theorem State.appendRsp_tx (s : State) (r : Response) : (s.appendRsp r).tx = s.tx := rfl
@[simp] theorem State.appendRsp_accLog (s : State) (r : Response) : (s.appendRsp r).accLog = s.accLog := rfl
@[simp] theorem State.appendRsp_accIn (s : State) (r : Response) : (s.appendRsp r).accIn = s.accIn := rfl
@[simp] theorem State.appendRsp_room (s : State) (r : Response) : (s.appendRsp r).room = s.room := rfl
@[simp] theorem State.appendRsp_schedule (s : State) (r : Response) : (s.appendRsp r).schedule = s.schedule := rfl

@[simp] theorem State.appendTx_params (s : State) (es : List TxEvent) : (s.appendTx es).params = s.params := rfl
@[simp] theorem State.appendTx_pc (s : State) (es : List TxEvent) : (s.appendTx es).pc = s.pc := rfl
@[simp] theorem State.appendTx_op (s : State) (es : List TxEvent) : (s.appendTx es).op = s.op := rfl
@[simp] theorem State.appendTx_req (s : State) (es : List TxEvent) : (s.appendTx es).req = s.req := rfl
@[simp] theorem State.appendTx_reqLog (s : State) (es : List TxEvent) : (s.appendTx es).reqLog = s.reqLog := rfl
@[simp] theorem State.appendTx_rsp (s : State) (es : List TxEvent) : (s.appendTx es).rsp = s.rsp := rfl
@[simp] theorem State.appendTx_tx (s : State) (es : List TxEvent) : (s.appendTx es).tx = s.tx ++ es := rfl
@[simp] theorem State.appendTx_accLog (s : State) (es : List TxEvent) : (s.appendTx es).accLog = s.accLog := rfl
@[simp] theorem State.appendTx_accIn (s : State) (es : List TxEvent) : (s.appendTx es).accIn = s.accIn := rfl
@[simp] theorem State.appendTx_room (s : State) (es : List TxEvent) : (s.appendTx es).room = s.room := rfl
@[simp] theorem State.appendTx_schedule (s : State) (es : List TxEvent) : (s.appendTx es).schedule = s.schedule := rfl

@[simp] theorem State.logRead_params (s : State) (a : Axis) (v : Word) : (s.logRead a v).params = s.params := rfl
@[simp] theorem State.logRead_pc (s : State) (a : Axis) (v : Word) : (s.logRead a v).pc = s.pc := rfl
@[simp] theorem State.logRead_op (s : State) (a : Axis) (v : Word) : (s.logRead a v).op = s.op := rfl
@[simp] theorem State.logRead_req (s : State) (a : Axis) (v : Word) : (s.logRead a v).req = s.req := rfl
@[simp] theorem State.logRead_reqLog (s : State) (a : Axis) (v : Word) : (s.logRead a v).reqLog = s.reqLog := rfl
@[simp] theorem State.logRead_rsp (s : State) (a : Axis) (v : Word) : (s.logRead a v).rsp = s.rsp := rfl
@[simp] theorem State.logRead_tx (s : State) (a : Axis) (v : Word) : (s.logRead a v).tx = s.tx := rfl
@[simp] theorem State.logRead_accLog (s : State) (a : Axis) (v : Word) : (s.logRead a v).accLog = s.accLog ++ [(a, v)] := rfl
@[simp] theorem State.logRead_accIn (s : State) (a : Axis) (v : Word) : (s.logRead a v).accIn = s.accIn := rfl
@[simp] theorem State.logRead_room (s : State) (a : Axis) (v : Word) : (s.logRead a v).room = s.room := rfl
@[simp] theorem State.logRead_schedule (s : State) (a : Axis) (v : Word) : (s.logRead a v).schedule = s.schedule := rfl

@[simp] theorem State.hand_params (s : State) (es : List TxEvent) : (s.hand es).params = s.params := rfl
@[simp] theorem State.hand_pc (s : State) (es : List TxEvent) : (s.hand es).pc = s.pc := rfl
@[simp] theorem State.hand_op (s : State) (es : List TxEvent) : (s.hand es).op = s.op := rfl
@[simp] theorem State.hand_req (s : State) (es : List TxEvent) : (s.hand es).req = s.req := rfl
@[simp] theorem State.hand_reqLog (s : State) (es : List TxEvent) : (s.hand es).reqLog = s.reqLog := rfl
@[simp] theorem State.hand_rsp (s : State) (es : List TxEvent) : (s.hand es).rsp = s.rsp := rfl
@[simp] theorem State.hand_tx (s : State) (es : List TxEvent) : (s.hand es).tx = s.tx ++ es := rfl
@[simp] theorem State.hand_accLog (s : State) (es : List TxEvent) : (s.hand es).accLog = s.accLog := rfl
@[simp] theorem State.hand_accIn (s : State) (es : List TxEvent) : (s.hand es).accIn = s.accIn := rfl
@[simp] theorem State.hand_room (s : State) (es : List TxEvent) : (s.hand es).room = s.room.map (· - es.length) := rfl
@[simp] theorem State.hand_schedule (s : State) (es : List TxEvent) : (s.hand es).schedule = s.schedule := rfl

@[simp] theorem State.finish_params (s : State) (o : Operation) : (s.finish o).params = s.params := rfl
@[simp] theorem State.finish_pc (s : State) (o : Operation) : (s.finish o).pc = s.pc + 1 := rfl
@[simp] theorem State.finish_op (s : State) (o : Operation) : (s.finish o).op = none := rfl
@[simp] theorem State.finish_req (s : State) (o : Operation) : (s.finish o).req = s.req := rfl
@[simp] theorem State.finish_reqLog (s : State) (o : Operation) : (s.finish o).reqLog = s.reqLog := rfl
@[simp] theorem State.finish_rsp (s : State) (o : Operation) : (s.finish o).rsp = s.rsp ++ [o.response] := rfl
@[simp] theorem State.finish_tx (s : State) (o : Operation) : (s.finish o).tx = s.tx := rfl
@[simp] theorem State.finish_accLog (s : State) (o : Operation) : (s.finish o).accLog = s.accLog := rfl
@[simp] theorem State.finish_accIn (s : State) (o : Operation) : (s.finish o).accIn = s.accIn := rfl
@[simp] theorem State.finish_room (s : State) (o : Operation) : (s.finish o).room = s.room := rfl
@[simp] theorem State.finish_schedule (s : State) (o : Operation) : (s.finish o).schedule = s.schedule := rfl

@[simp] theorem readAcc_params (s : State) (a : Axis) : (readAcc s a).params = s.params := rfl
@[simp] theorem readAcc_pc (s : State) (a : Axis) : (readAcc s a).pc = s.pc := rfl
@[simp] theorem readAcc_op (s : State) (a : Axis) : (readAcc s a).op = s.op := rfl
@[simp] theorem readAcc_req (s : State) (a : Axis) : (readAcc s a).req = s.req := rfl
@[simp] theorem readAcc_reqLog (s : State) (a : Axis) : (readAcc s a).reqLog = s.reqLog := rfl
@[simp] theorem readAcc_rsp (s : State) (a : Axis) : (readAcc s a).rsp = s.rsp := rfl
@[simp] theorem readAcc_tx (s : State) (a : Axis) : (readAcc s a).tx = s.tx := rfl
@[simp] theorem readAcc_accLog (s : State) (a : Axis) : (readAcc s a).accLog = s.accLog ++ [(a, s.reading a)] := rfl
@[simp] theorem readAcc_accIn (s : State) (a : Axis) : (readAcc s a).accIn = s.accIn.tail := rfl
@[simp] theorem readAcc_room (s : State) (a : Axis) : (readAcc s a).room = s.room := rfl
@[simp] theorem readAcc_schedule (s : State) (a : Axis) : (readAcc s a).schedule = s.schedule := rfl

@[simp] theorem hardReset_params (s : State) : (hardReset s).params = s.params := rfl
@[simp] theorem hardReset_pc (s : State) : (hardReset s).pc = 0 := rfl
@[simp] theorem hardReset_op (s : State) : (hardReset s).op = none := rfl
@[simp] theorem hardReset_req (s : State) : (hardReset s).req = [] := rfl
@[simp] theorem hardReset_reqLog (s : State) : (hardReset s).reqLog = s.reqLog := rfl
@[simp] theorem hardReset_rsp (s : State) : (hardReset s).rsp = s.rsp := rfl
@[simp] theorem hardReset_tx (s : State) : (hardReset s).tx = s.tx := rfl
@[simp] theorem hardReset_accLog (s : State) : (hardReset s).accLog = s.accLog := rfl
@[simp] theorem hardReset_accIn (s : State) : (hardReset s).accIn = s.accIn := rfl
@[simp] theorem hardReset_room (s : State) : (hardReset s).room = s.room := rfl
@[simp] theorem hardReset_schedule (s : State) : (hardReset s).schedule = s.schedule := rfl

@[simp] theorem consume_params (s : State) (r : Request) (rest : List Word) : (consume r rest s).params = s.params := rfl
@[simp] theorem consume_pc (s : State) (r : Request) (rest : List Word) : (consume r rest s).pc = s.pc := rfl
@[simp] theorem consume_op (s : State) (r : Request) (rest : List Word) : (consume r rest s).op = s.op := rfl
@[simp] theorem consume_req (s : State) (r : Request) (rest : List Word) : (consume r rest s).req = rest := rfl
@[simp] theorem consume_reqLog (s : State) (r : Request) (rest : List Word) : (consume r rest s).reqLog = s.reqLog ++ [r] := rfl
@[simp] theorem consume_rsp (s : State) (r : Request) (rest : List Word) : (consume r rest s).rsp = s.rsp := rfl
@[simp] theorem consume_tx (s : State) (r : Request) (rest : List Word) : (consume r rest s).tx = s.tx := rfl
@[simp] theorem consume_accLog (s : State) (r : Request) (rest : List Word) : (consume r rest s).accLog = s.accLog := rfl
@[simp] theorem consume_accIn (s : State) (r : Request) (rest : List Word) : (consume r rest s).accIn = s.accIn := rfl
@[simp] theorem consume_room (s : State) (r : Request) (rest : List Word) : (consume r rest s).room = s.room := rfl
@[simp] theorem consume_schedule (s : State) (r : Request) (rest : List Word) : (consume r rest s).schedule = s.schedule := rfl

@[simp] theorem State.completed_params (s : State) (es : List TxEvent) (r : Response) : (s.completed es r).params = s.params := rfl
@[simp] theorem State.completed_pc (s : State) (es : List TxEvent) (r : Response) : (s.completed es r).pc = s.pc + 1 := rfl
@[simp] theorem State.completed_op (s : State) (es : List TxEvent) (r : Response) : (s.completed es r).op = none := rfl
@[simp] theorem State.completed_req (s : State) (es : List TxEvent) (r : Response) : (s.completed es r).req = s.req := rfl
@[simp] theorem State.completed_reqLog (s : State) (es : List TxEvent) (r : Response) : (s.completed es r).reqLog = s.reqLog := rfl
@[simp] theorem State.completed_rsp (s : State) (es : List TxEvent) (r : Response) : (s.completed es r).rsp = s.rsp ++ [r] := rfl
@[simp] theorem State.completed_tx (s : State) (es : List TxEvent) (r : Response) : (s.completed es r).tx = s.tx ++ es := rfl
@[simp] theorem State.completed_accLog (s : State) (es : List TxEvent) (r : Response) : (s.completed es r).accLog = s.accLog := rfl
@[simp] theorem State.completed_accIn (s : State) (es : List TxEvent) (r : Response) : (s.completed es r).accIn = s.accIn := rfl
@[simp] theorem State.completed_room (s : State) (es : List TxEvent) (r : Response) : (s.completed es r).room = s.room.map (· - es.length) := rfl
@[simp] theorem State.completed_schedule (s : State) (es : List TxEvent) (r : Response) : (s.completed es r).schedule = s.schedule := rfl

@[simp] theorem State.consumed_params (s : State) (r : Request) (rest : List Word) : (s.consumed r rest).params = s.params := rfl
@[simp] theorem State.consumed_pc (s : State) (r : Request) (rest : List Word) : (s.consumed r rest).pc = s.pc := rfl
@[simp] theorem State.consumed_op (s : State) (r : Request) (rest : List Word) : (s.consumed r rest).op = s.op := rfl
@[simp] theorem State.consumed_req (s : State) (r : Request) (rest : List Word) : (s.consumed r rest).req = rest := rfl
@[simp] theorem State.consumed_reqLog (s : State) (r : Request) (rest : List Word) : (s.consumed r rest).reqLog = s.reqLog ++ [r] := rfl
@[simp] theorem State.consumed_rsp (s : State) (r : Request) (rest : List Word) : (s.consumed r rest).rsp = s.rsp := rfl
@[simp] theorem State.consumed_tx (s : State) (r : Request) (rest : List Word) : (s.consumed r rest).tx = s.tx := rfl
@[simp] theorem State.consumed_accLog (s : State) (r : Request) (rest : List Word) : (s.consumed r rest).accLog = s.accLog := rfl
@[simp] theorem State.consumed_accIn (s : State) (r : Request) (rest : List Word) : (s.consumed r rest).accIn = s.accIn := rfl
@[simp] theorem State.consumed_room (s : State) (r : Request) (rest : List Word) : (s.consumed r rest).room = s.room := rfl
@[simp] theorem State.consumed_schedule (s : State) (r : Request) (rest : List Word) : (s.consumed r rest).schedule = s.schedule := rfl

/-- What a consumed request leaves, as the claims write it. -/
theorem consume_eq_consumed (s : State) (r : Request) (rest : List Word) : consume r rest s = s.consumed r rest := rfl

end Sys2Proof.Machine
end

