-- ==== Sys2Proof/Laws/Ops.lean ====
section
/-! SUPPORT. One spec lemma per shared operation: what the Frame Encoder hands over under a limit, what an operation in
progress becomes, and what launching an operation leaves when the transport takes all of it and when it does not. -/

namespace Sys2Proof.Machine

/-- What is left of an encoder and its queue, as events. -/
def leftOver (f : Framing) (e : Option Encoder) (queued : List Command) : List TxEvent :=
  match e with
  | none => []
  | some e => e.pending ++ queued.flatMap (emitCommand f)

theorem Operation.remaining_eq_leftOver (f : Framing) (o : Operation) :
    o.remaining f = leftOver f o.encoder o.queued := by
  unfold Operation.remaining leftOver; cases o.encoder <;> rfl

/-- The Frame Encoder hands over the first `k` events of what is left and keeps the others in order; it is done exactly
when there were no more than `k`. -/
theorem encodeUpTo_spec (f : Framing) (queued : List Command) (e : Encoder) (k : Nat) :
    (encodeUpTo f queued e k).1 = (leftOver f (some e) queued).take k ∧
    leftOver f (encodeUpTo f queued e k).2.1 (encodeUpTo f queued e k).2.2 = (leftOver f (some e) queued).drop k ∧
    ((encodeUpTo f queued e k).2.1.isSome ↔ k < (leftOver f (some e) queued).length) := by
  induction queued generalizing e k with
  | nil =>
    unfold encodeUpTo
    by_cases h : k < e.pending.length
    · simp [h, leftOver]
    · have : e.pending.length ≤ k := by omega
      simp [h, leftOver, List.take_of_length_le this, this]
  | cons c cs ih =>
    unfold encodeUpTo
    by_cases h : k < e.pending.length
    · have h0 : k - e.pending.length = 0 := by omega
      simp only [h, if_true, leftOver, List.take_append, List.drop_append, h0, List.take_zero, List.append_nil,
        List.drop_zero, Option.isSome_some, List.length_append, true_iff, true_and]
      omega
    · have hle : e.pending.length ≤ k := by omega
      obtain ⟨h1, h2, h3⟩ := ih (Encoder.start f c) (k - e.pending.length)
      have hs : leftOver f (some (Encoder.start f c)) cs = (c :: cs).flatMap (emitCommand f) := by
        simp [leftOver, Encoder.start]
      rw [hs] at h1 h2 h3
      simp only [h, if_false]
      refine ⟨?_, ?_, ?_⟩
      · rw [h1]; simp only [leftOver, List.take_append, List.take_of_length_le hle]
      · rw [h2]; simp only [leftOver, List.drop_append, List.drop_of_length_le hle, List.nil_append]
      · rw [h3]; simp only [leftOver, List.length_append]; omega

/-- An encoder that is kept is in the middle of its Command, if the one it came from was going through one. -/
theorem encodeUpTo_keeps_sending (f : Framing) (queued : List Command) (e : Encoder) (k : Nat)
    (hp : e.pending <:+ emitCommand f e.values) (hc : e.checksum = accumulator f e.values) (e' : Encoder)
    (h : (encodeUpTo f queued e k).2.1 = some e') :
    e'.pending ≠ [] ∧ e'.pending <:+ emitCommand f e'.values ∧ e'.checksum = accumulator f e'.values := by
  induction queued generalizing e k with
  | nil =>
    unfold encodeUpTo at h
    by_cases hk : k < e.pending.length
    · simp only [hk, if_true, Option.some.injEq] at h
      subst h
      exact ⟨by simp; omega, (List.drop_suffix _ _).trans hp, hc⟩
    · simp [hk] at h
  | cons c cs ih =>
    unfold encodeUpTo at h
    by_cases hk : k < e.pending.length
    · simp only [hk, if_true, Option.some.injEq] at h
      subst h
      exact ⟨by simp; omega, (List.drop_suffix _ _).trans hp, hc⟩
    · simp only [hk, if_false] at h
      exact ih (Encoder.start f c) (k - e.pending.length) (List.suffix_refl _) rfl h

/-- Handing over: the first `k` events of what remains, the others kept; nothing else of the operation changes. -/
theorem Operation.handOver_spec (f : Framing) (k : Nat) (o : Operation) :
    (o.handOver f k).1 = (o.remaining f).take k ∧
    (o.handOver f k).2.remaining f = (o.remaining f).drop k ∧
    (o.handOver f k).2.slots = o.slots ∧ (o.handOver f k).2.status = o.status ∧
    (o.handOver f k).2.result = o.result ∧
    ((o.handOver f k).2.encoder.isSome ↔ o.encoder.isSome ∧ k < (o.remaining f).length) := by
  unfold Operation.handOver
  cases he : o.encoder with
  | none => simp [Operation.remaining, he]
  | some e =>
    obtain ⟨h1, h2, h3⟩ := encodeUpTo_spec f o.queued e k
    have hr : o.remaining f = leftOver f (some e) o.queued := by rw [Operation.remaining_eq_leftOver, he]
    rw [hr]
    refine ⟨h1, ?_, rfl, rfl, rfl, ?_⟩
    · rw [Operation.remaining_eq_leftOver]; exact h2
    · simpa using h3

@[simp] theorem Operation.handOver_response (f : Framing) (k : Nat) (o : Operation) :
    (o.handOver f k).2.response = o.response := by
  obtain ⟨-, -, -, hs, hr, -⟩ := Operation.handOver_spec f k o
  simp [Operation.response, hs, hr]

@[simp] theorem advance_idle (s : State) (h : s.op = none) : advance s = s := by simp [advance, h]

/-- The transport takes the rest of the operation: everything is handed over, then the one response. -/
theorem advance_completes (s : State) (o : Operation) (h : s.op = some o)
    (hk : s.takes (o.remaining s.params.framing).length) :
    advance s = s.completed (o.remaining s.params.framing) o.response := by
  obtain ⟨h1, -, -, -, -, h6⟩ := Operation.handOver_spec s.params.framing
    (s.allowance (o.remaining s.params.framing).length) o
  have hle : (o.remaining s.params.framing).length ≤ s.allowance (o.remaining s.params.framing).length := by
    unfold State.allowance
    cases hr : s.room with
    | none => simp
    | some r => exact hk r hr
  have hn : ¬ ((o.handOver s.params.framing (s.allowance (o.remaining s.params.framing).length)).2.encoder.isSome) := by
    rw [h6]; omega
  unfold advance
  simp only [h, hn, h1, List.take_of_length_le hle]
  simp [State.completed, State.finish, State.hand, State.setOp, State.setPc, State.appendRsp, State.setRoom,
    State.appendTx]

/-- The transport stalls after `k` events: those are handed over, the operation stays in progress, no response. -/
theorem advance_stalls (s : State) (o : Operation) (k : Nat) (h : s.op = some o) (hr : s.room = some k)
    (hk : k < (o.remaining s.params.framing).length) :
    ∃ o', advance s = { s with op := some o', tx := s.tx ++ (o.remaining s.params.framing).take k, room := some 0 } ∧
      o' = (o.handOver s.params.framing k).2 := by
  have ha : s.allowance (o.remaining s.params.framing).length = k := by simp [State.allowance, hr]
  obtain ⟨h1, -, -, -, -, h6⟩ := Operation.handOver_spec s.params.framing k o
  have he : o.encoder.isSome := by
    cases hx : o.encoder with
    | none => simp [Operation.remaining, hx] at hk
    | some e => rfl
  refine ⟨_, ?_, rfl⟩
  unfold advance
  simp only [h, ha, h6.2 ⟨he, hk⟩, if_true, h1]
  have hm : min k (o.remaining s.params.framing).length = k := by omega
  simp [State.hand, State.setOp, State.setRoom, State.appendTx, hr, List.length_take, hm]

/-- Every operation in progress either goes on to its end or stalls. -/
theorem takes_or_stalls (s : State) (n : Nat) : s.takes n ∨ ∃ k, s.room = some k ∧ k < n := by
  unfold State.takes
  cases h : s.room with
  | none => left; intro r hr; cases hr
  | some k =>
    by_cases hk : n ≤ k
    · left; intro r hr; cases hr; exact hk
    · right; exact ⟨k, rfl, by omega⟩

@[simp] theorem State.takes_zero (s : State) : s.takes 0 := fun _ _ => Nat.zero_le _

theorem Operation.start_remaining (f : Framing) (slots : List Word) (cs : List Command) (st : Status)
    (res : Option ResultWord) : (Operation.start f slots cs st res).remaining f = cs.flatMap (emitCommand f) := by
  cases cs <;> simp [Operation.start, Operation.remaining, Encoder.start]

@[simp] theorem Operation.start_response (f : Framing) (slots : List Word) (cs : List Command) (st : Status)
    (res : Option ResultWord) : (Operation.start f slots cs st res).response = Response.of st res := by
  cases cs <;> rfl

@[simp] theorem Operation.start_slots (f : Framing) (slots : List Word) (cs : List Command) (st : Status)
    (res : Option ResultWord) : (Operation.start f slots cs st res).slots = slots := by cases cs <;> rfl

@[simp] theorem Operation.start_status (f : Framing) (slots : List Word) (cs : List Command) (st : Status)
    (res : Option ResultWord) : (Operation.start f slots cs st res).status = st := by cases cs <;> rfl

@[simp] theorem Operation.start_result (f : Framing) (slots : List Word) (cs : List Command) (st : Status)
    (res : Option ResultWord) : (Operation.start f slots cs st res).result = res := by cases cs <;> rfl

/-- Launching, when the transport takes all of it: the whole operation, in one move. -/
theorem launch_completes (slots : List Word) (cs : List Command) (st : Status) (res : Option ResultWord) (s : State)
    (h : s.takes (cs.flatMap (emitCommand s.params.framing)).length) :
    launch slots cs st res s = s.completed (cs.flatMap (emitCommand s.params.framing)) (Response.of st res) := by
  have hrem := Operation.start_remaining s.params.framing slots cs st res
  have := advance_completes (s.setOp (some (Operation.start s.params.framing slots cs st res))) _ rfl
    (by simpa [hrem, State.takes] using h)
  unfold launch
  rw [this]
  simp [hrem, State.completed, State.setOp]

/-- Launching an operation without Commands: it ends at once, whatever the transport does. -/
theorem launch_no_commands (slots : List Word) (st : Status) (res : Option ResultWord) (s : State) :
    launch slots [] st res s = s.completed [] (Response.of st res) := by
  simpa using launch_completes slots [] st res s (by simp)

/-- Launching, when the transport stalls after `k` events: they are handed over, the operation is in progress with the
rest, and there is no response. -/
theorem launch_stalls (slots : List Word) (cs : List Command) (st : Status) (res : Option ResultWord) (s : State) (k : Nat)
    (hr : s.room = some k) (hk : k < (cs.flatMap (emitCommand s.params.framing)).length) :
    ∃ o, launch slots cs st res s =
        { s with op := some o, tx := s.tx ++ (cs.flatMap (emitCommand s.params.framing)).take k, room := some 0 } ∧
      o.remaining s.params.framing = (cs.flatMap (emitCommand s.params.framing)).drop k ∧
      o.slots = slots ∧ o.status = st ∧ o.result = res := by
  have hrem := Operation.start_remaining s.params.framing slots cs st res
  obtain ⟨o, ho, rfl⟩ := advance_stalls (s.setOp (some (Operation.start s.params.framing slots cs st res))) _ k rfl
    (by simpa using hr) (by simpa [hrem] using hk)
  obtain ⟨-, h2, h3, h4, h5, -⟩ := Operation.handOver_spec s.params.framing k
    (Operation.start s.params.framing slots cs st res)
  refine ⟨_, by unfold launch; rw [ho]; simp only [State.setOp_params, State.setOp_tx, hrem]; rfl, ?_, ?_, ?_, ?_⟩
  · simpa [hrem] using h2
  · simpa using h3
  · simpa using h4
  · simpa using h5

/-- A response carries the code of its status. -/
@[simp] theorem Response.of_status (st : Status) (res : Option ResultWord) : (Response.of st res).status = st.code := by
  cases st <;> cases res <;> rfl

/-- A response without a result: `(code, 0, 0)`. -/
theorem Response.of_none (st : Status) : Response.of st none = ⟨st.code, false, 0⟩ := by cases st <;> rfl

/-- An operation in progress ends in this move, or it stalls after the `k` events the transport had room for. -/
theorem advance_cases (s : State) (o : Operation) (h : s.op = some o) :
    advance s = s.completed (o.remaining s.params.framing) o.response ∨
    ∃ k, s.room = some k ∧ k < (o.remaining s.params.framing).length ∧
      advance s = { s with op := some (o.handOver s.params.framing k).2,
                           tx := s.tx ++ (o.remaining s.params.framing).take k, room := some 0 } := by
  rcases takes_or_stalls s (o.remaining s.params.framing).length with ht | ⟨k, hr, hk⟩
  · exact .inl (advance_completes s o h ht)
  · obtain ⟨o', ho, rfl⟩ := advance_stalls s o k h hr hk
    exact .inr ⟨k, hr, hk, ho⟩

/-- Nothing of a launch is lost or added: what is on TX and what is still to come are its events, and either its response
has been given or it is in progress with its status. -/
theorem launch_accounts (slots : List Word) (cs : List Command) (st : Status) (res : Option ResultWord) (s : State) :
    (launch slots cs st res s).tx ++ (launch slots cs st res s).outstanding
      = s.tx ++ cs.flatMap (emitCommand s.params.framing) ∧
    (((launch slots cs st res s).op = none ∧ (launch slots cs st res s).rsp = s.rsp ++ [Response.of st res] ∧
        (launch slots cs st res s).pc = s.pc + 1) ∨
      ∃ o, (launch slots cs st res s).op = some o ∧ o.status = st ∧ (launch slots cs st res s).rsp = s.rsp ∧
        (launch slots cs st res s).pc = s.pc) := by
  rcases takes_or_stalls s (cs.flatMap (emitCommand s.params.framing)).length with h | ⟨k, hr, hk⟩
  · rw [launch_completes _ _ _ _ _ h]
    exact ⟨by simp [State.outstanding], .inl ⟨rfl, rfl, rfl⟩⟩
  · obtain ⟨o, ho, h2, -, h4, -⟩ := launch_stalls slots cs st res s k hr hk
    rw [ho]
    exact ⟨by simp [State.outstanding, h2], .inr ⟨o, rfl, h4, rfl, rfl⟩⟩

/-- What no launch touches, whether it completes or stalls. -/
theorem launch_unchanged (slots : List Word) (cs : List Command) (st : Status) (res : Option ResultWord) (s : State) :
    (launch slots cs st res s).params = s.params ∧ (launch slots cs st res s).req = s.req ∧
    (launch slots cs st res s).reqLog = s.reqLog ∧ (launch slots cs st res s).accLog = s.accLog ∧
    (launch slots cs st res s).accIn = s.accIn ∧ (launch slots cs st res s).schedule = s.schedule := by
  rcases takes_or_stalls s (cs.flatMap (emitCommand s.params.framing)).length with h | ⟨k, hr, hk⟩
  · simp [launch_completes _ _ _ _ _ h]
  · obtain ⟨o, ho, -⟩ := launch_stalls slots cs st res s k hr hk
    simp [ho]

/-- Raising a fault: one response with its code, `pc + 1`, nothing else (R184). -/
theorem raise_spec (st : Status) (slots : List Word) (s : State) :
    raise st slots s = .next (s.completed [] (Response.of st none)) := by simp [raise, launch_no_commands]

/-- Answering a result: one response with it, `pc + 1`, nothing else. -/
theorem answer_spec (slots : List Word) (v : Int) (s : State) :
    answer slots v s = .next (s.completed [] (Response.of .ok (some (resultWord v)))) := by
  simp [answer, launch_no_commands]

/-- Sending, when the transport takes all of it. -/
theorem send_completes (slots : List Word) (cs : List Command) (s : State)
    (h : s.takes (cs.flatMap (emitCommand s.params.framing)).length) :
    send slots cs s = .next (s.completed (cs.flatMap (emitCommand s.params.framing)) (Response.of .ok none)) := by
  simp [send, launch_completes _ _ _ _ _ h]

end Sys2Proof.Machine
end

