-- ==== Sys2Proof/Laws/Operands.lean ====
section
/-! SUPPORT. The block's arithmetic beside the library's: truncating division, clamping, the axis operand. -/

namespace Sys2Proof.Machine

/-- The spec's division is the library's truncating one (R13). -/
theorem tdiv_eq_tdiv (a b : Int) : tdiv a b = Int.tdiv a b := by
  have key : ∀ m n : Nat, Int.tdiv (m : Int) (n : Int) = ((m / n : Nat) : Int) := fun m n => rfl
  unfold tdiv
  rcases Int.natAbs_eq a with ha | ha <;> rcases Int.natAbs_eq b with hb | hb <;>
    generalize a.natAbs = m at * <;> generalize b.natAbs = n at * <;> subst ha <;> subst hb <;>
    rcases m with _ | m <;> rcases n with _ | n <;>
    simp [-neg_add_rev, Int.neg_tdiv, Int.tdiv_neg, Int.sign_neg, Int.sign_natCast_add_one, ← key]

theorem clamp_eq (v : Int) : clamp v = max 0 (min 127 v) := by
  unfold clamp Config.payloadMin Config.payloadMax; split_ifs <;> omega

theorem linearScale_eq (v fl fh tl th : Int) :
    linearScale v fl fh tl th = tl + Int.tdiv ((v - fl) * (th - tl)) (fh - fl) := by
  simp [linearScale, tdiv_eq_tdiv]

theorem accelerationScale_eq (r : Int) : accelerationScale r = Int.tdiv ((r + 1024) * 127) 2048 := by
  simp [accelerationScale, linearScale_eq, Config.accSrcLow, Config.accSrcHigh, Config.accDstLow, Config.accDstHigh]

/-- The checksum as the library's residue (R121). -/
theorem checksum_eq (vs : Command) : checksum vs = vs.sum % 128 := rfl

/-- The byte of a digit (R64). -/
theorem digitByte_toNat (d : Nat) (h : d < 10) : (digitByte d).toNat = 0x30 + d := by
  simp [digitByte, Config.digitZero]; omega

@[simp] theorem slotValue_eq (w : Word) : slotValue w = w.toInt := rfl

theorem slotValue_inj (a b : Word) : a.toInt = b.toInt ↔ a = b := BitVec.toInt_inj

theorem axisOf_eq (w : Word) :
    axisOf w = if w = 0 then some .x else if w = 1 then some .y else if w = 2 then some .z else none := by
  have h0 : w.toInt = 0 ↔ w = 0 := by rw [← BitVec.toInt_inj]; rfl
  have h1 : w.toInt = 1 ↔ w = 1 := by rw [← BitVec.toInt_inj]; rfl
  have h2 : w.toInt = 2 ↔ w = 2 := by rw [← BitVec.toInt_inj]; rfl
  simp only [axisOf, slotValue_eq, h0, h1, h2]

end Sys2Proof.Machine
end

