-- ==== Sys2Proof/Laws/Exec.lean ====
section
/-! SUPPORT. Say once what `exec` can do: it launches the operation with the status and the Commands the spec gives it,
after at most one ACC read. -/

namespace Sys2Proof.Machine

/-- The Commands an operation sends under the parameters: none on a fault. -/
def commandsOf (p : Params) (i : Instr) : List Command :=
  if expectedStatus p i = .ok then commandsIfOk i else []

theorem commandsOf_tx (p : Params) (i : Instr) : (commandsOf p i).flatMap (emitCommand p.framing) = expectedTx p i := by
  unfold commandsOf expectedTx; split_ifs <;> rfl

/-- What the state of a launch is: the one before, or the one after the ACC read of a legal ACCELERATION. -/
def Reads (i : Instr) (s s' : State) : Prop :=
  s' = s ∨ ∃ w a, i = .acceleration w ∧ axisOf w = some a ∧ s' = readAcc s a

theorem Reads.unchanged {i : Instr} {s s' : State} (h : Reads i s s') :
    s'.params = s.params ∧ s'.pc = s.pc ∧ s'.op = s.op ∧ s'.req = s.req ∧ s'.reqLog = s.reqLog ∧ s'.rsp = s.rsp ∧
    s'.tx = s.tx ∧ s'.room = s.room ∧ s'.schedule = s.schedule ∧ s.accLog <+: s'.accLog ∧ s'.accIn <:+ s.accIn := by
  rcases h with rfl | ⟨w, a, -, -, rfl⟩
  · simp
  · simp [List.tail_suffix]

/-- An axis operand names an axis exactly when the request is legal (R89). -/
theorem axisOf_isSome_iff (p : Params) (w : Word) :
    (axisOf w).isSome = true ↔ Instr.legal p (.acceleration w) = true := by
  rw [axisOf_eq]; simp only [Instr.legal, decide_eq_true_eq]; split_ifs <;> simp_all

/-- Every instruction launches: its operands, the Commands and the status the spec gives it, and a result only with
status OK and no Commands. -/
theorem exec_launches (i : Instr) (s : State) :
    ∃ res s', Reads i s s' ∧
      exec i s = .next (launch i.operands (commandsOf s.params i) (expectedStatus s.params i) res s') ∧
      (commandsOf s.params i ≠ [] → res = none) := by
  cases i with
  | clamp v => exact ⟨_, s, .inl rfl, rfl, by simp [commandsOf, commandsIfOk]⟩
  | ascale r => exact ⟨_, s, .inl rfl, rfl, by simp [commandsOf, commandsIfOk]⟩
  | lscale v fl fh tl th =>
    by_cases h : fh = fl
    · exact ⟨none, s, .inl rfl, by
        simp [exec, execLscale, h, raise, Instr.operands, commandsOf, expectedStatus, Instr.legal, Instr.degenerate],
        fun _ => rfl⟩
    · exact ⟨_, s, .inl rfl, by
        simp only [exec, execLscale, slotValue_eq, slotValue_inj, h, if_false, answer, Instr.operands, commandsOf,
          expectedStatus, Instr.legal, Instr.degenerate, commandsIfOk, decide_false]
        rfl, by simp [commandsOf, commandsIfOk]⟩
  | midiCommand vs =>
    by_cases h : vs.length ≤ s.params.kmax.val
    · exact ⟨none, s, .inl rfl, by
        simp only [exec, execMidiCommand, gt_iff_lt, Nat.not_lt.mpr h, if_false, send, Instr.operands, commandsOf,
          expectedStatus, Instr.legal, h, decide_true, Instr.degenerate, commandsIfOk]
        rfl, fun _ => rfl⟩
    · exact ⟨none, s, .inl rfl, by
        simp [exec, execMidiCommand, h, raise, Instr.operands, commandsOf, expectedStatus, Instr.legal], fun _ => rfl⟩
  | midiMessage c r =>
    exact ⟨none, s, .inl rfl, by
      simp [exec, execMidiMessage, send, Instr.operands, commandsOf, expectedStatus, Instr.legal, Instr.degenerate,
        commandsIfOk, clamp_eq], fun _ => rfl⟩
  | midiScaled c r fl fh tl th =>
    by_cases h : fh = fl
    · exact ⟨none, s, .inl rfl, by
        simp [exec, execMidiScaled, h, raise, Instr.operands, commandsOf, expectedStatus, Instr.legal,
          Instr.degenerate], fun _ => rfl⟩
    · exact ⟨none, s, .inl rfl, by
        simp [exec, execMidiScaled, h, send, Instr.operands, commandsOf, expectedStatus, Instr.legal,
          Instr.degenerate, commandsIfOk, clamp_eq, linearScale_eq, slotValue_inj], fun _ => rfl⟩
  | switchOn c => exact ⟨none, s, .inl rfl, rfl, fun _ => rfl⟩
  | switchOff c => exact ⟨none, s, .inl rfl, rfl, fun _ => rfl⟩
  | toggle c => exact ⟨none, s, .inl rfl, rfl, fun _ => rfl⟩
  | bang c =>
    by_cases h : s.params.framing = .simple
    · exact ⟨none, s, .inl rfl, by
        simp [exec, execBang, h, send, Instr.operands, commandsOf, expectedStatus, Instr.legal, Instr.degenerate,
          commandsIfOk], fun _ => rfl⟩
    · exact ⟨none, s, .inl rfl, by
        simp [exec, execBang, h, raise, Instr.operands, commandsOf, expectedStatus, Instr.legal], fun _ => rfl⟩
  | acceleration w =>
    have hax := axisOf_eq w
    cases ha : axisOf w with
    | none =>
      have hl : ¬ (w = 0 ∨ w = 1 ∨ w = 2) := by
        rw [ha] at hax; intro h; rcases h with rfl | rfl | rfl <;> simp_all
      exact ⟨none, s, .inl rfl, by
        simp only [exec, execAcceleration, ha, raise, Instr.operands, commandsOf, expectedStatus, Instr.legal, hl,
          decide_false]
        rfl, fun _ => rfl⟩
    | some a =>
      have hl : w = 0 ∨ w = 1 ∨ w = 2 := by
        rw [ha] at hax; by_contra h; push Not at h; simp_all
      exact ⟨_, readAcc s a, .inr ⟨w, a, rfl, ha, rfl⟩, by
        simp only [exec, execAcceleration, ha, answer, Instr.operands, commandsOf, expectedStatus, Instr.legal, hl,
          decide_true, Instr.degenerate, commandsIfOk]
        rfl, by simp [commandsOf, commandsIfOk]⟩

end Sys2Proof.Machine
end

