-- ==== Sys2Proof/Laws/Step.lean ====
section
/-! SUPPORT. Say once what a request, a move of the block and a step can do; every invariant is derived from these. -/

namespace Sys2Proof.Machine

/-- The decoder drops no operand word. -/
theorem decode_operands {h : Word} {xs : List Word} {i : Instr} (hd : decode h xs = .ok i) : i.operands = xs := by
  unfold decode at hd
  split at hd
  · cases hd
  · unfold decodeOperands at hd
    split at hd <;> first | (cases hd; done) | (cases hd; rfl) | (split at hd <;> first | (cases hd; done) | (cases hd; rfl))

/-- The state a consumed request is launched from: the one before, or the one after the ACC read of a legal
ACCELERATION. -/
def ReadsOne (r : Request) (s s' : State) : Prop :=
  s' = s ∨ ∃ w a, decode r.header r.operands = .ok (.acceleration w) ∧ axisOf w = some a ∧ s' = readAcc s a

theorem ReadsOne.unchanged {r : Request} {s s' : State} (h : ReadsOne r s s') :
    s'.params = s.params ∧ s'.pc = s.pc ∧ s'.op = s.op ∧ s'.req = s.req ∧ s'.reqLog = s.reqLog ∧ s'.rsp = s.rsp ∧
    s'.tx = s.tx ∧ s'.room = s.room ∧ s'.schedule = s.schedule ∧ s.accLog <+: s'.accLog ∧ s'.accIn <:+ s.accIn := by
  rcases h with rfl | ⟨w, a, -, -, rfl⟩
  · simp
  · simp [List.tail_suffix]

/-- Every request, malformed or not, launches one operation with the status and the events the spec gives it. -/
theorem runRequest_launches (r : Request) (s : State) :
    ∃ cs res s', ReadsOne r s s' ∧
      runRequest r s = .next (launch r.operands cs (requestStatus s.params r) res s') ∧
      cs.flatMap (emitCommand s.params.framing) = requestTx s.params r ∧
      (cs ≠ [] → res = none ∧ requestStatus s.params r = .ok) := by
  unfold runRequest requestStatus requestTx
  cases hd : decode r.header r.operands with
  | error e => exact ⟨[], none, s, .inl rfl, rfl, rfl, by simp⟩
  | ok i =>
    obtain ⟨res, s', hr, he, hc⟩ := exec_launches i s
    refine ⟨commandsOf s.params i, res, s', ?_, ?_, commandsOf_tx _ _, fun h => ⟨hc h, ?_⟩⟩
    · rcases hr with rfl | ⟨w, a, rfl, ha, rfl⟩
      · exact .inl rfl
      · exact .inr ⟨w, a, hd, ha, rfl⟩
    · simpa [decode_operands hd] using he
    · by_contra hne; exact h (by simp [commandsOf, hne])

/-- A move of the block: the operation in progress goes on, or the block waits, or one request is consumed and
launched. -/
theorem blockMove_cases {s t : State} (h : blockMove s = .next t) :
    (∃ o, s.op = some o ∧ t = advance s) ∨
    (s.op = none ∧ splitRequest s.req = none ∧ t = s) ∨
    (∃ hd xs rest cs res s', s.op = none ∧ splitRequest s.req = some (hd, xs, rest) ∧
      ReadsOne ⟨hd, xs⟩ (consume ⟨hd, xs⟩ rest s) s' ∧ t = launch xs cs (requestStatus s.params ⟨hd, xs⟩) res s' ∧
      cs.flatMap (emitCommand s.params.framing) = requestTx s.params ⟨hd, xs⟩ ∧
      (cs ≠ [] → res = none ∧ requestStatus s.params ⟨hd, xs⟩ = .ok)) := by
  unfold blockMove at h
  cases ho : s.op with
  | some o => simp only [ho, Host.Outcome.next.injEq] at h; exact .inl ⟨o, rfl, h.symm⟩
  | none =>
    simp only [ho] at h
    cases hs : splitRequest s.req with
    | none => simp only [hs, Host.Outcome.next.injEq] at h; exact .inr (.inl ⟨rfl, rfl, h.symm⟩)
    | some q =>
      obtain ⟨hd, xs, rest⟩ := q
      simp only [hs] at h
      obtain ⟨cs, res, s', hr, he, hc, hn⟩ := runRequest_launches ⟨hd, xs⟩ (consume ⟨hd, xs⟩ rest s)
      rw [he, Host.Outcome.next.injEq] at h
      exact .inr (.inr ⟨hd, xs, rest, cs, res, s', rfl, rfl, hr, h.symm, by simpa using hc, by simpa using hn⟩)

/-- A step is one move of one agent: the block, another agent at its channel, or a reset. -/
theorem step_cases {s t : State} (h : step s = .next t) :
    (∃ u, (u = s ∧ s.schedule = [] ∨ ∃ ts, s.schedule = .block :: ts ∧ u = s.setSchedule ts) ∧ blockMove u = .next t) ∨
    (∃ ts, (∃ ws, s.schedule = .append ws :: ts ∧ t = (s.setSchedule ts).setReq (s.req ++ ws)) ∨
      (∃ r, s.schedule = .transport r :: ts ∧ t = (s.setSchedule ts).setRoom r) ∨
      (∃ v, s.schedule = .sense v :: ts ∧ t = (s.setSchedule ts).setAccIn (s.accIn ++ [v]))) ∨
    (∃ ts, (s.schedule = .reset none :: ts ∧ t = hardReset (s.setSchedule ts)) ∨
      (∃ k u, s.schedule = .reset (some k) :: ts ∧
        blockMove ((s.setSchedule ts).setRoom (roomUpTo k s.room)) = .next u ∧
        t = hardReset ((u.setRsp s.rsp).setRoom (roomLess (u.tx.length - s.tx.length) s.room)))) := by
  unfold step move at h
  cases hs : s.schedule with
  | nil => simp only [hs] at h; exact .inl ⟨s, .inl ⟨rfl, rfl⟩, h⟩
  | cons a ts =>
    simp only [hs] at h
    cases a with
    | block => exact .inl ⟨_, .inr ⟨ts, rfl, rfl⟩, h⟩
    | append ws =>
      simp only [takeTurn, Host.Outcome.next.injEq, State.setSchedule_req] at h
      exact .inr (.inl ⟨ts, .inl ⟨ws, rfl, h.symm⟩⟩)
    | transport r =>
      simp only [takeTurn, Host.Outcome.next.injEq] at h
      exact .inr (.inl ⟨ts, .inr (.inl ⟨r, rfl, h.symm⟩)⟩)
    | sense v =>
      simp only [takeTurn, Host.Outcome.next.injEq, State.setSchedule_accIn] at h
      exact .inr (.inl ⟨ts, .inr (.inr ⟨v, rfl, h.symm⟩)⟩)
    | reset d =>
      cases d with
      | none =>
        simp only [takeTurn, Host.Outcome.next.injEq] at h
        exact .inr (.inr ⟨ts, .inl ⟨rfl, h.symm⟩⟩)
      | some k =>
        simp only [takeTurn, resetInside, State.setSchedule_room, State.setSchedule_rsp, State.setSchedule_tx] at h
        split at h
        · rename_i u hu
          simp only [Host.Outcome.next.injEq] at h
          exact .inr (.inr ⟨ts, .inr ⟨k, u, rfl, hu, h.symm⟩⟩)
        · cases h
        · cases h

end Sys2Proof.Machine
end

