-- ==== Sys2Proof/Laws/PerInstr.lean ====
section
/-! SUPPORT. Statements made of every instruction as syntax, one lemma per constructor. -/

namespace Sys2Proof.Laws.HeaderFields

/-- The header word of a request holds its operand count in `n` and zero in the reserved bits, and the request is one
header word and its operands (R76, R78). -/
def Statement (i : Instr) : Prop :=
  i.wellFormed = true →
    countField i.header = i.operands.length ∧ reservedField i.header = 0 ∧ opcodeField i.header = i.opcode ∧
    (encode i).length = 1 + i.operands.length

/-- A header word put together from its fields has those fields. -/
theorem header_fields (n : Nat) (op : BitVec 8) (h : n ≤ 255) :
    countField ((0#16 ++ BitVec.ofNat 8 n : BitVec 24) ++ op) = n ∧
    reservedField ((0#16 ++ BitVec.ofNat 8 n : BitVec 24) ++ op) = 0 ∧
    opcodeField ((0#16 ++ BitVec.ofNat 8 n : BitVec 24) ++ op) = op := by
  have hop := op.isLt
  have hv : ((0#16 ++ BitVec.ofNat 8 n : BitVec 24) ++ op : BitVec 32).toNat = n * 256 + op.toNat := by
    simp only [BitVec.toNat_append, BitVec.toNat_ofNat]
    rw [← Nat.shiftLeft_add_eq_or_of_lt (by omega), ← Nat.shiftLeft_add_eq_or_of_lt (by omega)]
    simp only [Nat.shiftLeft_eq]; omega
  refine ⟨?_, ?_, ?_⟩
  · simp only [countField, BitVec.extractLsb'_toNat, hv, Nat.shiftRight_eq_div_pow]; omega
  · apply BitVec.eq_of_toNat_eq
    simp only [reservedField, BitVec.extractLsb'_toNat, hv, Nat.shiftRight_eq_div_pow, BitVec.ofNat_eq_ofNat,
      BitVec.toNat_ofNat]; omega
  · apply BitVec.eq_of_toNat_eq
    simp only [opcodeField, BitVec.extractLsb'_toNat, hv, Nat.shiftRight_eq_div_pow]; omega

/-- The statement follows from the operand count alone. -/
theorem of_count (i : Instr) (h : i.operands.length ≤ 255) : Statement i := by
  intro _
  obtain ⟨h1, h2, h3⟩ := header_fields i.operands.length i.opcode h
  exact ⟨h1, h2, h3, by simp [encode]; omega⟩

theorem clamp (value : Word) : Statement (.clamp value) := of_count _ (by simp [Instr.operands])
theorem lscale (value fromLow fromHigh toLow toHigh : Word) : Statement (.lscale value fromLow fromHigh toLow toHigh) :=
  of_count _ (by simp [Instr.operands])
theorem ascale (raw : Word) : Statement (.ascale raw) := of_count _ (by simp [Instr.operands])
theorem midiCommand (values : List Word) : Statement (.midiCommand values) := fun h =>
  of_count (.midiCommand values) (by simpa [Instr.wellFormed, Instr.operands] using h) h
theorem midiMessage (channel rawValue : Word) : Statement (.midiMessage channel rawValue) :=
  of_count _ (by simp [Instr.operands])
theorem midiScaled (channel rawValue fromLow fromHigh toLow toHigh : Word) :
    Statement (.midiScaled channel rawValue fromLow fromHigh toLow toHigh) := of_count _ (by simp [Instr.operands])
theorem switchOn (channel : Word) : Statement (.switchOn channel) := of_count _ (by simp [Instr.operands])
theorem switchOff (channel : Word) : Statement (.switchOff channel) := of_count _ (by simp [Instr.operands])
theorem toggle (channel : Word) : Statement (.toggle channel) := of_count _ (by simp [Instr.operands])
theorem bang (channel : Word) : Statement (.bang channel) := of_count _ (by simp [Instr.operands])
theorem acceleration (axis : Word) : Statement (.acceleration axis) := of_count _ (by simp [Instr.operands])

end Sys2Proof.Laws.HeaderFields
end

