-- ==== Sys2Proof/Laws/Decode.lean ====
section
/-! SUPPORT. The header's fields as arithmetic on its number (R76), and a complete request at the front of REQ (R78). -/

namespace Sys2Proof

theorem countField_eq (h : Word) : countField h = h.toNat / 256 % 256 := by
  simp [countField, BitVec.extractLsb'_toNat, Nat.shiftRight_eq_div_pow]

theorem opcodeField_eq (h : Word) : (opcodeField h).toNat = h.toNat % 256 := by
  simp [opcodeField, BitVec.extractLsb'_toNat]

theorem reservedField_eq_zero_iff (h : Word) : reservedField h = 0 ↔ h.toNat < 65536 := by
  have := h.isLt
  rw [← BitVec.toNat_inj]
  simp only [reservedField, BitVec.extractLsb'_toNat, Nat.shiftRight_eq_div_pow, BitVec.ofNat_eq_ofNat,
    BitVec.toNat_ofNat]
  omega

/-- A header followed by the operand words it announces is one request, whatever follows. -/
theorem splitRequest_complete (h : Word) (xs rest : List Word) (hl : xs.length = countField h) :
    splitRequest (h :: (xs ++ rest)) = some (h, xs, rest) := by
  simp [splitRequest, ← hl]

/-- A request that is split off has the operand words its header announces, and nothing is lost. -/
theorem splitRequest_some {ws : List Word} {h : Word} {xs rest : List Word} (hs : splitRequest ws = some (h, xs, rest)) :
    xs.length = countField h ∧ ws = h :: (xs ++ rest) := by
  cases ws with
  | nil => cases hs
  | cons h' ws =>
    simp only [splitRequest] at hs
    split at hs
    · cases hs
    · rename_i hlt
      simp only [Option.some.injEq, Prod.mk.injEq] at hs
      obtain ⟨rfl, hx, hr⟩ := hs
      rw [← hx, ← hr]
      exact ⟨List.length_take_of_le (by omega), by simp⟩

/-- What decodes has no reserved bit set and the opcode of its instruction. -/
theorem decode_fields {h : Word} {xs : List Word} {i : Instr} (hd : decode h xs = .ok i) :
    reservedField h = 0 ∧ (opcodeField h).toNat = i.opcode.toNat := by
  unfold decode at hd
  split at hd
  · cases hd
  · rename_i hr
    refine ⟨by simpa using hr, ?_⟩
    unfold decodeOperands at hd
    split at hd <;> rename_i ho
    all_goals first
      | (cases hd; done)
      | (rw [ho]; cases hd; rfl)
      | (rw [ho]; split at hd <;> first | (cases hd; done) | (cases hd; rfl))

end Sys2Proof

namespace Sys2Proof.Machine

/-- An idle block whose turn it is consumes and runs the complete request at the front of REQ (R41). -/
theorem step_idle_request (s : State) (h : Word) (xs rest : List Word) (hs : s.schedule = []) (ho : s.op = none)
    (hq : splitRequest s.req = some (h, xs, rest)) : step s = runRequest ⟨h, xs⟩ (s.consumed ⟨h, xs⟩ rest) := by
  simp [step, move, hs, blockMove, ho, hq, consume_eq_consumed]

end Sys2Proof.Machine
end

