-- ==== Sys2Proof/Tests/Slice0.lean ====
section
/-! SUPPORT. The model's own tests. Words and expected results are those of `spec/95_test_vectors.md` (sections 1 and 2)
and the rules it cites; a `witness_<Statement>` shows a concrete state and operands that meet the hypotheses of the
statement of that name. -/

open Sys2Proof Sys2Proof.Machine

namespace Sys2Proof.Tests

/-! ### Helpers -/

/-- The machine after reset with the words `ws` on REQ. -/
def withReq (ws : List Word) : State := { State.reset with req := ws }

/-- The same under the simple framing. -/
def simpleReq (ws : List Word) : State := { withReq ws with params := { framing := .simple, kmax := 255 } }

/-- Bytes as TX events. -/
def bytes (bs : List Byte) : List TxEvent := bs.map .byte

/-- What one step put on TX, RSP (status, has_result, result) and left on REQ. -/
def txOf : Host.Outcome State Fault Refusal → List TxEvent
  | .next t => t.tx
  | _ => []
def rspOf : Host.Outcome State Fault Refusal → List (Nat × Bool × Int)
  | .next t => t.rsp.map fun r => (r.status.toNat, r.hasResult, r.result.toInt)
  | _ => []
def reqOf : Host.Outcome State Fault Refusal → List Word
  | .next t => t.req
  | _ => []

/-! ### Well-formedness: an ill-formed term for each check -/

theorem test_wellFormed_refuses_256_values : (Instr.midiCommand (List.replicate 256 0)).wellFormed = false := by
  rw [Instr.wellFormed, List.length_replicate]; decide
theorem test_wellFormed_takes_255_values : (Instr.midiCommand (List.replicate 255 0)).wellFormed = true := by
  rw [Instr.wellFormed, List.length_replicate]; decide
theorem test_legal_refuses_too_many_values :
    (Instr.midiCommand [1, 2, 3]).legal { framing := .checksummed, kmax := 2 } = false := by decide
theorem test_legal_refuses_checksummed_bang : (Instr.bang 3).legal Params.decided = false := by decide
theorem test_legal_refuses_axis_3 : (Instr.acceleration 3).legal Params.decided = false := by decide
theorem test_degenerate_lscale : (Instr.lscale 5 2 2 0 127).degenerate = true := by decide
theorem test_degenerate_midiScaled : (Instr.midiScaled 5 50 7 7 0 127).degenerate = true := by decide

/-! ### Decoding: a word of every row, from `95_test_vectors.md` and the encodings of R76, R80 -/

theorem test_decode_clamp : decode 0x00000101 [0x80000000] = .ok (.clamp 0x80000000) := by decide
theorem test_decode_lscale :
    decode 0x00000502 [0xFFFFFFFF, 0, 3, 0, 0xA] = .ok (.lscale (-1) 0 3 0 10) := by decide
theorem test_decode_ascale : decode 0x00000103 [0x200] = .ok (.ascale 512) := by decide
theorem test_decode_midiCommand : decode 0x00000210 [0xFFFFFFFD, 1] = .ok (.midiCommand [-3, 1]) := by decide
theorem test_decode_midiMessage : decode 0x00000211 [5, 0x12C] = .ok (.midiMessage 5 300) := by decide
theorem test_decode_midiScaled :
    decode 0x00000612 [7, 0x200, 0, 0x3FF, 0, 0x7F] = .ok (.midiScaled 7 512 0 1023 0 127) := by decide
theorem test_decode_switchOn : decode 0x00000113 [3] = .ok (.switchOn 3) := by decide
theorem test_decode_switchOff : decode 0x00000114 [3] = .ok (.switchOff 3) := by decide
theorem test_decode_toggle : decode 0x00000115 [3] = .ok (.toggle 3) := by decide
theorem test_decode_bang : decode 0x00000116 [3] = .ok (.bang 3) := by decide
theorem test_decode_acceleration : decode 0x00000120 [2] = .ok (.acceleration 2) := by decide
theorem test_decode_rejects_by_name :
    decode 0x00010101 [7] = .error .reservedBits ∧ decode 0x00000104 [5] = .error .reservedOpcode ∧
    decode 0x00000201 [5, 6] = .error .operandCount ∧ decode 0 [] = .error .reservedOpcode := by decide
theorem test_encode_switchOn : encode (.switchOn 3) = [0x00000113, 3] := by decide
theorem test_tableWord_midiCommand : decodeTableWord 32 0x00000210 = some (.midiCommand [0, 0]) := by decide

/-! ### One step each (expected results: `95_test_vectors.md` 2.1 to 2.8) -/

theorem test_clamp_negative : rspOf (step (withReq [0x101, 0xFFFFFFFF])) = [(0, true, 0)] := by decide
theorem test_clamp_above : rspOf (step (withReq [0x101, 0x12C])) = [(0, true, 127)] := by decide
theorem test_lscale_truncates : rspOf (step (withReq [0x502, 0xFFFFFFFF, 0, 3, 0, 0xA])) = [(0, true, -3)] := by decide
theorem test_lscale_widest :
    rspOf (step (withReq [0x502, 0x7FFFFFFF, 0x80000000, 0x80000001, 0x80000000, 0x7FFFFFFF]))
      = [(0, true, 18446744062972133377)] := by decide
theorem test_ascale_zero : rspOf (step (withReq [0x103, 0])) = [(0, true, 63)] := by decide
theorem test_ascale_truncates_below : rspOf (step (withReq [0x103, BitVec.ofInt 32 (-1025)])) = [(0, true, 0)] := by decide
theorem test_midiCommand_negative :
    txOf (step (withReq [0x210, 0xFFFFFFFD, 1])) = bytes [0x2A, 0x2B, 0x3C, 0x32, 0x3E, 0x3C, 0x2D, 0x33, 0x3E, 0x3C,
      0x31, 0x3E, 0x3C, 0x31, 0x32, 0x36, 0x3E, 0x5E] := by decide
theorem test_midiCommand_simple :
    txOf (step (simpleReq [0x210, BitVec.ofInt 32 (-12), 345])) = bytes [0x53, 0x2D, 0x31, 0x32, 0x45] ++ [.gap] ++
      bytes [0x53, 0x33, 0x34, 0x35, 0x45] ++ [.gap] := by decide
theorem test_midiMessage_clamps :
    txOf (step (withReq [0x211, 5, 0x12C])) = bytes [0x2A, 0x2B, 0x3C, 0x32, 0x3E, 0x3C, 0x35, 0x3E, 0x3C, 0x31, 0x32,
      0x37, 0x3E, 0x3C, 0x34, 0x3E, 0x5E] := by decide
theorem test_midiScaled_inverted :
    txOf (step (withReq [0x612, 5, 0x32, 0, 0x64, 0x7F, 0])) = bytes [0x2A, 0x2B, 0x3C, 0x32, 0x3E, 0x3C, 0x35, 0x3E,
      0x3C, 0x36, 0x34, 0x3E, 0x3C, 0x36, 0x39, 0x3E, 0x5E] := by decide
theorem test_midiScaled_degenerate :
    rspOf (step (withReq [0x612, 5, 0x32, 7, 7, 0, 0x7F])) = [(1, false, 0)] ∧
    txOf (step (withReq [0x612, 5, 0x32, 7, 7, 0, 0x7F])) = [] := by decide
theorem test_switchOn :
    txOf (step (withReq [0x113, 0x7F])) = bytes [0x2A, 0x2B, 0x3C, 0x32, 0x3E, 0x3C, 0x31, 0x32, 0x37, 0x3E, 0x3C, 0x31,
      0x3E, 0x3C, 0x30, 0x3E, 0x5E] := by decide
theorem test_switchOff :
    txOf (step (withReq [0x114, 3])) = bytes [0x2A, 0x2B, 0x3C, 0x32, 0x3E, 0x3C, 0x33, 0x3E, 0x3C, 0x30, 0x3E, 0x3C,
      0x33, 0x3E, 0x5E] := by decide
theorem test_toggle :
    txOf (step (withReq [0x115, 3])) = bytes [0x2A, 0x2B, 0x3C, 0x32, 0x3E, 0x3C, 0x33, 0x3E, 0x3C, 0x31, 0x3E, 0x3C,
      0x34, 0x3E, 0x5E, 0x2A, 0x2B, 0x3C, 0x32, 0x3E, 0x3C, 0x33, 0x3E, 0x3C, 0x30, 0x3E, 0x3C, 0x33, 0x3E, 0x5E] := by
  decide
/-- Section 2.9: cut after 20 events, no response, the words waiting on REQ gone. -/
theorem test_toggle_cut_by_reset :
    txOf (step { withReq [0x115, 3, 0x114] with schedule := [.reset (some 20)] }) = bytes [0x2A, 0x2B, 0x3C, 0x32, 0x3E,
      0x3C, 0x33, 0x3E, 0x3C, 0x31, 0x3E, 0x3C, 0x34, 0x3E, 0x5E, 0x2A, 0x2B, 0x3C, 0x32, 0x3E] ∧
    rspOf (step { withReq [0x115, 3, 0x114] with schedule := [.reset (some 20)] }) = [] ∧
    reqOf (step { withReq [0x115, 3, 0x114] with schedule := [.reset (some 20)] }) = [] := by decide
theorem test_bang_checksummed : rspOf (step (withReq [0x116, 3])) = [(2, false, 0)] := by decide
theorem test_bang_simple :
    txOf (step (simpleReq [0x116, 3])) = bytes [0x53, 0x33, 0x45] ++ [.gap] ++ bytes [0x53, 0x31, 0x45] ++ [.gap] ++
      bytes [0x53, 0x33, 0x45] ++ [.gap] ++ bytes [0x53, 0x30, 0x45] ++ [.gap] := by decide
theorem test_acceleration_reads :
    rspOf (step { withReq [0x120, 0] with accIn := [512] }) = [(0, true, 95)] := by decide
theorem test_acceleration_axis_3 : rspOf (step (withReq [0x120, 3])) = [(2, false, 0)] := by decide
/-- Section 2.8: the wrong count is answered before the degenerate range is looked at, and six words are consumed. -/
theorem test_malformed_before_degenerate :
    rspOf (step (withReq [0x512, 1, 2, 3, 3, 4, 0x101])) = [(2, false, 0)] ∧
    reqOf (step (withReq [0x512, 1, 2, 3, 3, 4, 0x101])) = [0x101] := by decide

/-! ### Witnesses -/

/-- A transport that does not stall takes any number of events. -/
theorem takes_of_room_none (s : State) (n : Nat) (h : s.room = none) : s.takes n := by
  intro r hr; rw [h] at hr; cases hr

/-- The machine after reset, busy with SWITCH_ON 3 after two events, the transport stalled. -/
def stalled : State :=
  { State.reset with
    op := some
      { slots := [3],
        encoder := some { values := [3, 1], checksum := some 4, pending := (emitCommand .checksummed [3, 1]).drop 2 },
        queued := [], status := .ok, result := none },
    room := some 0 }

theorem witness_DecodeEncodeRoundTrip : (Instr.midiCommand (List.replicate 255 0)).wellFormed = true :=
  test_wellFormed_takes_255_values
theorem witness_DecodedWordsAreTheEncoding :
    splitRequest [0x113, 3, 9] = some (0x113, [3], [9]) ∧ decode 0x113 [3] = .ok (.switchOn 3) := by decide
theorem witness_DecoderFollowsOpcodeTable :
    ([1, 2] : List Word).length = countField 0x210 ∧ ∃ r ∈ opcodeTable, (0x210 : Word) &&& r.mask = r.pattern := by decide
theorem witness_RequestLengthFromHeaderAlone :
    (withReq [0x211, 1, 2]).schedule = [] ∧ (withReq [0x211, 1, 2]).op = none ∧
    (withReq [0x211, 1, 2]).req = 0x211 :: [1, 2] ∧ (0x211 : Word).toNat / 256 % 256 ≤ ([1, 2] : List Word).length ∧
    ([1] : List Word).length < (0x211 : Word).toNat / 256 % 256 := by decide
theorem witness_StepRunsDecodedRequest :
    (Instr.switchOn 3).wellFormed = true ∧ (withReq [0x113, 3, 9]).op = none ∧
    (withReq [0x113, 3, 9]).req = encode (.switchOn 3) ++ [9] ∧ (withReq [0x113, 3, 9]).schedule = [] ∧
    { withReq [0x113, 3, 9] with schedule := [.block] }.schedule = .block :: [] := by decide
theorem witness_ReservedOpcodeIsIllegal :
    (withReq [0x117, 3, 9]).schedule = [] ∧ (withReq [0x117, 3, 9]).op = none ∧
    (withReq [0x117, 3, 9]).req = 0x117 :: ([3] ++ [9]) ∧ ([3] : List Word).length = (0x117 : Word).toNat / 256 % 256 ∧
    0x17 ≤ (0x117 : Word).toNat % 256 ∧ (0x0 : Word).toNat % 256 = 0 ∧ (0x4 : Word).toNat % 256 = 0x04 ∧
    (0xF : Word).toNat % 256 = 0x0F ∧ (0x1F : Word).toNat % 256 = 0x1F ∧ (0x21 : Word).toNat % 256 = 0x21 ∧
    (0xFF : Word).toNat % 256 = 0xFF := by decide
theorem witness_WrongOperandCountIsIllegal :
    (withReq [0x201, 5, 6]).schedule = [] ∧ (withReq [0x201, 5, 6]).op = none ∧
    (withReq [0x201, 5, 6]).req = 0x201 :: ([5, 6] ++ []) ∧
    ([5, 6] : List Word).length = (0x201 : Word).toNat / 256 % 256 ∧
    ((0x201 : Word).toNat % 256, 1) ∈ [(0x01, 1), (0x02, 5)] ∧ ([5, 6] : List Word).length ≠ 1 ∧
    (0x210 : Word).toNat % 256 = 0x10 ∧ (1 : Fin 256).val < ([5, 6] : List Word).length ∧
    (0x210 : Word).toNat < 65536 ∧ ([5, 6] : List Word).length ≤ (2 : Fin 256).val := by decide
theorem witness_ReservedBitsAreIllegal :
    (withReq [0x10101, 7]).schedule = [] ∧ (withReq [0x10101, 7]).op = none ∧
    (withReq [0x10101, 7]).req = 0x10101 :: ([7] ++ []) ∧
    ([7] : List Word).length = (0x10101 : Word).toNat / 256 % 256 ∧ 65536 ≤ (0x10101 : Word).toNat := by decide
theorem witness_StatusOfEveryRequest :
    ((withReq [0x113, 3]).schedule = [] ∧ (withReq [0x113, 3]).op = none ∧
      (withReq [0x113, 3]).req = 0x113 :: ([3] ++ []) ∧
      ([3] : List Word).length = (0x113 : Word).toNat / 256 % 256) ∧
    Malformed (0x10101 : Word).toNat 1 ∧ ¬ Malformed (0x120 : Word).toNat 1 ∧
    (Instr.acceleration 3).legal Params.decided = false ∧ (Instr.lscale 5 2 2 0 127).legal Params.decided = true ∧
    (Instr.lscale 5 2 2 0 127).degenerate = true ∧ (Instr.switchOn 3).legal Params.decided = true ∧
    (Instr.switchOn 3).degenerate = false := by
  refine ⟨by decide, .inl (by decide), ?_, by decide, by decide, by decide, by decide, by decide⟩
  rintro (h | h | ⟨k, h, hk⟩)
  · revert h; decide
  · revert h; decide
  · simp at h; exact hk h.symm
theorem witness_FaultLeavesNoTrace :
    (withReq [0x116, 3]).schedule = [] ∧ (withReq [0x116, 3]).op = none ∧ splitRequest (withReq [0x116, 3]).req = some (0x116, [3], []) ∧
    requestStatus (withReq [0x116, 3]).params ⟨0x116, [3]⟩ ≠ .ok := by decide
theorem witness_BangBySetting :
    State.reset.op = none ∧ State.reset.params.framing = .checksummed ∧ (simpleReq []).op = none ∧
    (simpleReq []).params.framing = .simple ∧
    (simpleReq []).takes (emitCommand .simple [3, 1] ++ emitCommand .simple [3, 0]).length :=
  ⟨rfl, rfl, rfl, rfl, takes_of_room_none _ _ rfl⟩
theorem witness_ClampResult : State.reset.op = none := rfl
theorem witness_AscaleResult : State.reset.op = none := rfl
theorem witness_LscaleResult : State.reset.op = none ∧ (100 : Word) ≠ 0 := by decide
theorem witness_TruncatingDivisionLaws : (2 : Int) ≠ 0 ∧ (0 : Int) < 7 ∧ (-7 : Int) < 0 := by decide
theorem witness_LinearScaleEndPointsAndMonotone :
    (100 : Int) ≠ 0 ∧ (49 : Int) ≤ 50 ∧ (0 : Int) < (127 - 0) * (100 - 0) ∧ ((0 : Int) - 127) * (100 - 0) < 0 := by decide
theorem witness_ResultFieldHoldsEveryResult : (0x80000001 : Word) ≠ 0x80000000 := by decide
theorem witness_ScalerFrame :
    State.reset.op = none ∧ ∃ t, exec (.clamp 5) State.reset = .next t := ⟨rfl, _, rfl⟩
theorem witness_DecimalRendering : (0 : Int) < 64 ∧ (-12 : Int) < 0 := by decide
theorem witness_FieldsNeedNoEscaping : (0x2D : Byte) ∈ dec (-3) ∧ (0x33 : Byte) ∈ dec (-3) := by decide
theorem witness_ChecksumNeedsSevenBits : 7 ≤ 7 := by decide
theorem witness_MidiCommandChecksummed :
    State.reset.op = none ∧ State.reset.params.framing = .checksummed ∧
    ([1, 64] : List Word).length ≤ State.reset.params.kmax.val ∧ State.reset.takes 17 :=
  ⟨rfl, rfl, by decide, takes_of_room_none _ _ rfl⟩
theorem witness_MidiCommandSimple :
    (simpleReq []).op = none ∧ (simpleReq []).params.framing = .simple ∧
    ([3, 1] : List Word).length ≤ (simpleReq []).params.kmax.val ∧ (simpleReq []).takes 8 :=
  ⟨rfl, rfl, by decide, takes_of_room_none _ _ rfl⟩
theorem witness_FrameLength : (List.replicate 255 (0 : Word)).length ≤ 255 := by
  rw [List.length_replicate]
theorem witness_FramesAreUniquelyReadable : [[1], [2, 3]].flatMap frame = [[1], [2, 3]].flatMap frame := rfl
theorem witness_MidiMessageSendsClamped :
    State.reset.op = none ∧ State.reset.takes (emitCommand State.reset.params.framing [5, 127]).length ∧
    [(5 : Word).toInt, if (300 : Word).toInt < 0 then 0 else if (300 : Word).toInt > 127 then 127 else (300 : Word).toInt]
      = [5, 127] := ⟨rfl, takes_of_room_none _ _ rfl, by decide⟩
theorem witness_MidiScaledSendsScaledClamped :
    State.reset.op = none ∧ (100 : Word) ≠ 0 ∧ State.reset.takes (emitCommand State.reset.params.framing [5, 63]).length :=
  ⟨rfl, by decide, takes_of_room_none _ _ rfl⟩
theorem witness_SwitchOnAndOff :
    State.reset.op = none ∧ State.reset.takes (emitCommand State.reset.params.framing [3, 1]).length ∧
    State.reset.takes (emitCommand State.reset.params.framing [3, 0]).length :=
  ⟨rfl, takes_of_room_none _ _ rfl, takes_of_room_none _ _ rfl⟩
theorem witness_ToggleSendsOnThenOff :
    State.reset.op = none ∧ State.reset.takes
      (emitCommand State.reset.params.framing [3, 1] ++ emitCommand State.reset.params.framing [3, 0]).length :=
  ⟨rfl, takes_of_room_none _ _ rfl⟩
theorem witness_AccelerationReadsOneAxis :
    State.reset.op = none ∧ ((2 : Word), Axis.z) ∈ [((0 : Word), Axis.x), (1, Axis.y), (2, Axis.z)] ∧
    { State.reset with accIn := [512] }.accIn = 512 :: [] ∧ (3 : Word) ≠ 0 ∧ (3 : Word) ≠ 1 ∧ (3 : Word) ≠ 2 := by decide
theorem witness_NominalReadingGivesPayload : (-1024 : Int) ≤ 1024 := by decide
theorem witness_PseudoOperationExpansions :
    State.reset.op = none ∧ State.reset.room = none ∧ 2 ≤ State.reset.params.kmax.val ∧ (100 : Word) ≠ 0 ∧
    (simpleReq []).params.framing = .simple := by decide
theorem witness_NoOperationRemembers :
    State.reset.op = none ∧ (withReq [9]).op = none ∧ State.reset.room = none ∧ (withReq [9]).room = none ∧
    State.reset.params = (withReq [9]).params ∧ ∀ a, State.reset.reading a = (withReq [9]).reading a :=
  ⟨rfl, rfl, rfl, rfl, rfl, fun _ => rfl⟩
theorem witness_SendingFrame : State.reset.op = none ∧ ∃ t, exec (.toggle 3) State.reset = .next t := ⟨rfl, _, rfl⟩
theorem witness_AccelerationFrame :
    State.reset.op = none ∧ ∃ t, exec (.acceleration 2) State.reset = .next t := ⟨rfl, _, rfl⟩
theorem witness_StalledSendHoldsItsPlace :
    { State.reset with room := some 2 }.op = none ∧ { State.reset with room := some 2 }.room = some 2 ∧
    2 < (expectedTx State.reset.params (.switchOn 3)).length := by decide
theorem witness_StalledTransportHangsTheBlock :
    stalled.schedule = [] ∧ stalled.BusyOk ∧ stalled.op ≠ none ∧ stalled.room = some 0 := by
  refine ⟨rfl, ?_, by decide, rfl⟩
  intro o ho
  have : o = _ := (Option.some.inj ho).symm
  subst this
  exact ⟨_, rfl, by decide, ⟨bytes [0x2A, 0x2B], by decide⟩, by decide, rfl, rfl⟩
theorem witness_StallDoesNotChangeTheOutcome :
    State.reset.schedule = [] ∧ State.reset.op = none ∧ State.reset.room = none := by decide
theorem witness_BusyBlockAcceptsNothing : stalled.schedule = [] ∧ ∃ o, stalled.op = some o := ⟨rfl, _, rfl⟩
theorem witness_ResetValues :
    { State.reset with schedule := [.reset none] }.schedule = .reset none :: [] := rfl
theorem witness_ResetCutsAtAnyPoint :
    { withReq [0x115, 3] with schedule := [.reset (some 20)] }.schedule = .reset (some 20) :: [] ∧
    { withReq [0x115, 3] with schedule := [.reset (some 20)] }.room = none := ⟨rfl, rfl⟩
theorem witness_ParametersNeverChange : ∃ t, step (simpleReq [0x115, 3]) = .next t := ⟨_, rfl⟩
theorem witness_HistoriesOnlyGrow :
    ∃ t, step { withReq [0x115, 3] with tx := [.byte 0x5E], schedule := [.reset (some 20)] } = .next t := ⟨_, rfl⟩
theorem witness_OneResponseOnePc :
    (withReq [0x113, 3]).noReset ∧ ∃ t, step (withReq [0x113, 3]) = .next t :=
  ⟨(fun t h => by cases h), _, rfl⟩
theorem witness_OnlyAccelerationReads : ∃ t, step (withReq [0x120, 2]) = .next t := ⟨_, rfl⟩
theorem witness_StepKeepsResponsesWellFormed :
    (withReq [0x113, 3]).ResponsesOk ∧ ∃ t, step (withReq [0x113, 3]) = .next t :=
  ⟨(fun r h => by cases h), _, rfl⟩
theorem witness_StepKeepsBusyBlockSending :
    (withReq [0x113, 3]).BusyOk ∧ ∃ t, step (withReq [0x113, 3]) = .next t :=
  ⟨(fun o h => by cases h), _, rfl⟩
theorem witness_StepKeepsRunFaithful :
    (withReq [0x113, 3]).Faithful ∧ ∃ t, step (withReq [0x113, 3]) = .next t :=
  ⟨⟨(fun t h => by cases h), rfl, rfl, rfl⟩, _, rfl⟩
theorem witness_RunsSendWholeFrames :
    (∀ a ∈ [Turn.append [0x113, 3], Turn.block], ∀ k, a ≠ Turn.reset k) ∧
    ∃ t, core.run 2 { State.reset with schedule := [.append [0x113, 3], .block], params := Params.decided } = .next t ∧
      t.op = none := by
  refine ⟨fun a h k => ?_, _, rfl, by decide⟩
  simp at h; rcases h with rfl | rfl <;> simp
theorem witness_OtherAgentsTurnsDoWhatTheyName :
    { State.reset with schedule := [.append [0x113, 3]] }.schedule = .append [0x113, 3] :: [] ∧
    { State.reset with schedule := [.transport (some 0)] }.schedule = .transport (some 0) :: [] ∧
    { State.reset with schedule := [.transport none] }.schedule = .transport none :: [] ∧
    { State.reset with schedule := [.sense 512] }.schedule = .sense 512 :: [] := ⟨rfl, rfl, rfl, rfl⟩

end Sys2Proof.Tests
end

section
/-! SUPPORT. Requests that fault, and requests as header arithmetic (`30_encoding.md` R76 to R83, `60_exceptions.md`
R182, R184). -/

namespace Sys2Proof.Machine

/-! ### The header's arithmetic and the decoder -/

/-- What decodes is not malformed: no reserved bit, a row's opcode, the row's operand count (R81 to R83). -/
theorem not_malformed_of_decode {h : Word} {xs : List Word} {i : Instr} (hd : decode h xs = .ok i) :
    ¬ Malformed h.toNat xs.length := by
  obtain ⟨hres, hop⟩ := decode_fields hd
  rw [reservedField_eq_zero_iff] at hres
  rw [opcodeField_eq] at hop
  rintro (hbits | hopcode | ⟨k, hrow, hcount⟩)
  · omega
  · rw [hop] at hopcode
    cases i <;> simp [Instr.opcode] at hopcode
  · rw [hop] at hrow
    rw [← decode_operands hd] at hcount
    cases i <;> simp_all [Instr.opcode, Instr.operands]

/-- The spec gives a malformed request the status `IllegalRequest` (R182 (a) to (c)). -/
theorem requestStatus_of_malformed (p : Params) {h : Word} {xs : List Word} (hm : Malformed h.toNat xs.length) :
    requestStatus p ⟨h, xs⟩ = .illegalRequest := by
  unfold requestStatus
  cases hd : decode h xs with
  | ok i => exact absurd hm (not_malformed_of_decode hd)
  | error e => rfl

/-- `splitRequest_complete` with the operand count read off the header's number (R78). -/
theorem splitRequest_of_length {h : Word} {xs : List Word} (rest : List Word) (hlen : xs.length = h.toNat / 256 % 256) :
    splitRequest (h :: (xs ++ rest)) = some (h, xs, rest) :=
  splitRequest_complete h xs rest (by rw [hlen, countField_eq])

/-- Every operand count selects MIDI_COMMAND (R82). -/
theorem decode_midiCommand {h : Word} (xs : List Word) (hres : h.toNat < 65536) (hop : h.toNat % 256 = 0x10) :
    decode h xs = .ok (.midiCommand xs) := by
  have hz : reservedField h = 0 := (reservedField_eq_zero_iff h).mpr hres
  simp [decode, decodeOperands, hz, opcodeField_eq, hop]

/-- The status of MIDI_COMMAND is told from its operand count alone (R82). -/
theorem expectedStatus_midiCommand (p : Params) (vs : List Word) :
    expectedStatus p (.midiCommand vs) = if p.kmax.val < vs.length then .illegalRequest else .ok := by
  by_cases h : p.kmax.val < vs.length <;> simp [expectedStatus, Instr.legal, Instr.degenerate, h]

/-! ### Running a request -/

/-- A request whose status is a fault, whatever the transport does: one response `(code, 0, 0)`, `pc + 1`, nothing
else (R184). -/
theorem runRequest_of_fault (r : Request) (s : State) (hf : requestStatus s.params r ≠ .ok) :
    runRequest r s = .next (s.completed [] ⟨(requestStatus s.params r).code, false, 0⟩) := by
  obtain ⟨cs, res, s', hreads, hrun, -, hcs⟩ := runRequest_launches r s
  have hnil : cs = [] := by
    by_contra hne
    exact hf (hcs hne).2
  have hs' : s' = s := by
    rcases hreads with hs' | ⟨w, a, hd, hax, -⟩
    · exact hs'
    · have hlegal : Instr.legal s.params (.acceleration w) = true := by simp [← axisOf_isSome_iff, hax]
      exact absurd (by simp [requestStatus, hd, expectedStatus, hlegal, Instr.degenerate]) hf
  have hresp : Response.of (requestStatus s.params r) res = ⟨(requestStatus s.params r).code, false, 0⟩ := by
    cases hst : requestStatus s.params r with
    | ok => exact absurd hst hf
    | invalidRange => rfl
    | illegalRequest => rfl
  rw [hrun, hnil, hs', launch_no_commands, hresp]

/-- Running a request answers a next state and leaves REQ and its history alone (R78). -/
theorem runRequest_keeps_req (r : Request) (s : State) :
    ∃ t, runRequest r s = .next t ∧ t.req = s.req ∧ t.reqLog = s.reqLog := by
  obtain ⟨cs, res, s', hreads, hrun, -, -⟩ := runRequest_launches r s
  obtain ⟨-, -, -, hreq, hlog, -⟩ := hreads.unchanged
  obtain ⟨-, hreq', hlog', -⟩ := launch_unchanged r.operands cs (requestStatus s.params r) res s'
  exact ⟨_, hrun, hreq'.trans hreq, hlog'.trans hlog⟩

/-! ### Steps of an idle block -/

/-- While the first request on REQ is incomplete an idle block waits, without effect (R41). -/
theorem step_idle_waits (s : State) (hs : s.schedule = []) (ho : s.op = none) (hq : splitRequest s.req = none) :
    step s = .next s := by
  simp [step, move, hs, blockMove, ho, hq]

/-- A step that consumes a complete request whose status is `IllegalRequest` (R182, R184). -/
theorem step_idle_illegal {s : State} {h : Word} {xs rest : List Word} (hs : s.schedule = []) (ho : s.op = none)
    (hreq : s.req = h :: (xs ++ rest)) (hlen : xs.length = h.toNat / 256 % 256)
    (hst : requestStatus s.params ⟨h, xs⟩ = .illegalRequest) :
    step s = .next ((s.consumed ⟨h, xs⟩ rest).completed [] ⟨0x02, false, 0⟩) := by
  have hq : splitRequest s.req = some (h, xs, rest) := hreq ▸ splitRequest_of_length rest hlen
  have hst' : requestStatus (s.consumed ⟨h, xs⟩ rest).params ⟨h, xs⟩ = .illegalRequest := hst
  rw [step_idle_request s h xs rest hs ho hq, runRequest_of_fault _ _ (by rw [hst']; decide), hst']
  rfl

/-! ### The obligations on requests -/

/-- Settles O5: the length of a request is told by `splitRequest` alone, and running it touches neither REQ nor its
history. -/
theorem requestLengthFromHeaderAlone : Obligations.RequestLengthFromHeaderAlone := by
  intro s h ws hs ho hreq
  rw [← countField_eq]
  constructor
  · intro hle
    have hq : splitRequest s.req = some (h, ws.take (countField h), ws.drop (countField h)) := by
      simp [hreq, splitRequest, Nat.not_lt.mpr hle]
    obtain ⟨t, hrun, htreq, htlog⟩ := runRequest_keeps_req ⟨h, ws.take (countField h)⟩
      (s.consumed ⟨h, ws.take (countField h)⟩ (ws.drop (countField h)))
    refine ⟨t, by rw [step_idle_request s _ _ _ hs ho hq, hrun], ?_, htlog⟩
    rw [htreq, hreq, Nat.add_comm, List.drop_succ_cons]
    rfl
  · intro hlt
    exact step_idle_waits s hs ho (by simp [hreq, splitRequest, hlt])

/-- Settles O7: a reserved opcode is none of the eleven of the table. -/
theorem reservedOpcodeIsIllegal : Obligations.ReservedOpcodeIsIllegal := by
  intro s h xs rest hs ho hreq hlen hop
  have hm : Malformed h.toNat xs.length := .inr (.inl (by
    simp only [List.mem_cons, List.not_mem_nil, or_false]
    omega))
  exact step_idle_illegal hs ho hreq hlen (requestStatus_of_malformed _ hm)

/-- Settles O8: a fixed count by the decoder, the count of MIDI_COMMAND by its meaning. -/
theorem wrongOperandCountIsIllegal : Obligations.WrongOperandCountIsIllegal := by
  intro s h xs rest hs ho hreq hlen
  refine ⟨fun n hrow hne => ?_, fun hop hk => ?_, fun hres hop hk => ?_⟩
  · exact step_idle_illegal hs ho hreq hlen (requestStatus_of_malformed _ (.inr (.inr ⟨n, hrow, hne⟩)))
  · refine step_idle_illegal hs ho hreq hlen ?_
    rcases Nat.lt_or_ge h.toNat 65536 with hres | hres
    · simp [requestStatus, decode_midiCommand xs hres hop, expectedStatus_midiCommand, hk]
    · exact requestStatus_of_malformed _ (.inl hres)
  · have hd := decode_midiCommand xs hres hop
    have hq : splitRequest s.req = some (h, xs, rest) := hreq ▸ splitRequest_of_length rest hlen
    refine ⟨by simp [requestStatus, hd, expectedStatus_midiCommand, Nat.not_lt.mpr hk], ?_⟩
    simp [step_idle_request s h xs rest hs ho hq, runRequest, hd]

/-- Settles O9: a set reserved bit makes a header malformed whatever its opcode. -/
theorem reservedBitsAreIllegal : Obligations.ReservedBitsAreIllegal := by
  intro s h xs rest hs ho hreq hlen hres
  exact step_idle_illegal hs ho hreq hlen (requestStatus_of_malformed _ (.inl hres))

end Sys2Proof.Machine
end

section
/-! SUPPORT. The decimal rendering (`30_encoding.md` R64, R65) beside the library's digits. -/

namespace Sys2Proof.Machine

/-- With fuel enough the digits are the library's, most significant first. -/
theorem decimalDigits_eq_digits (fuel n : Nat) (hn : 0 < n) (hf : n < fuel) :
    decimalDigits fuel n = (Nat.digits 10 n).reverse.map digitByte := by
  induction fuel generalizing n with
  | zero => omega
  | succ fuel ih =>
    unfold decimalDigits
    split
    next hlt => simp [Nat.digits_of_lt 10 n (by omega) hlt]
    next hge => simp [ih (n / 10) (by omega) (by omega), Nat.digits_def' (b := 10) (by omega) hn]

/-- The rendering of a positive natural number is its base ten digits, most significant first (R65). -/
theorem decNat_eq_digits {n : Nat} (hn : 0 < n) : decNat n = (Nat.digits 10 n).reverse.map digitByte :=
  decimalDigits_eq_digits (n + 1) n hn (by omega)

theorem decNat_zero : decNat 0 = [0x30] := rfl

/-- A number that is not negative is rendered without a sign (R65). -/
theorem dec_of_nonneg {v : Int} (hv : 0 ≤ v) : dec v = decNat v.natAbs := if_neg (by omega)

/-- A negative number is rendered as a minus sign and its magnitude (R65). -/
theorem dec_of_neg {v : Int} (hv : v < 0) : dec v = 0x2D :: decNat v.natAbs := if_pos hv

/-- Every byte of a positive number's rendering is a digit. -/
theorem decNat_bytes {n : Nat} (hn : 0 < n) : ∀ b ∈ decNat n, 0x30 ≤ b.toNat ∧ b.toNat ≤ 0x39 := by
  intro b hb
  simp only [decNat_eq_digits hn, List.mem_map, List.mem_reverse] at hb
  obtain ⟨d, hd, rfl⟩ := hb
  have hlt : d < 10 := Nat.digits_lt_base (by omega) hd
  rw [digitByte_toNat d hlt]
  omega

/-- A positive number's rendering has no leading zero: the last of the library's digits is not zero. -/
theorem decNat_head {n : Nat} (hn : 0 < n) {b : Byte} (hb : (decNat n).head? = some b) : b ≠ 0x30 := by
  have hne : Nat.digits 10 n ≠ [] := Nat.digits_ne_nil_iff_ne_zero.mpr (by omega)
  have hlt := Nat.digits_lt_base (by omega) (List.getLast_mem hne)
  have hnz : (Nat.digits 10 n).getLast hne ≠ 0 := Nat.getLast_digit_ne_zero 10 (by omega)
  simp only [decNat_eq_digits hn, List.head?_map, List.head?_reverse, List.getLast?_eq_some_getLast hne,
    Option.map_some, Option.some.injEq] at hb
  subst hb
  intro heq
  have hval := congrArg BitVec.toNat heq
  rw [digitByte_toNat _ hlt, show (0x30 : Byte).toNat = 0x30 from rfl] at hval
  omega

/-- Reading the bytes of digits back, least significant first, is the library's evaluation in base ten. -/
theorem foldr_digitBytes (ds : List Nat) (hds : ∀ d ∈ ds, d < 10) :
    (ds.map digitByte).foldr (fun b (acc : Int) => 10 * acc + ((b.toNat : Int) - 0x30)) 0 =
      (Nat.ofDigits 10 ds : Nat) := by
  induction ds with
  | nil => rfl
  | cons d ds ih =>
    rw [List.forall_mem_cons] at hds
    rw [List.map_cons, List.foldr_cons, ih hds.2, digitByte_toNat d hds.1, Nat.ofDigits_cons]
    push_cast
    ring

/-- Read in base ten, most significant digit first, the rendering of a positive number gives the number (R65). -/
theorem decNat_value {n : Nat} (hn : 0 < n) :
    (decNat n).foldl (fun (acc : Int) b => 10 * acc + ((b.toNat : Int) - 0x30)) 0 = n := by
  rw [decNat_eq_digits hn, List.map_reverse, List.foldl_reverse,
    foldr_digitBytes _ fun d hd => Nat.digits_lt_base (by omega) hd, Nat.ofDigits_digits]

/-- A number below `10 ^ k` has at least one digit and, for `k > 0`, at most `k`. -/
theorem decNat_length {n k : Nat} (hk : 0 < k) (hn : n < 10 ^ k) :
    1 ≤ (decNat n).length ∧ (decNat n).length ≤ k := by
  rcases Nat.eq_zero_or_pos n with rfl | hpos
  · exact ⟨le_rfl, hk⟩
  · have hle : (Nat.digits 10 n).length ≤ k := (Nat.digits_length_le_iff (by omega) n).mpr hn
    have hpos' : 0 < (Nat.digits 10 n).length :=
      List.length_pos_iff.mpr (Nat.digits_ne_nil_iff_ne_zero.mpr (by omega))
    rw [decNat_eq_digits hpos, List.length_map, List.length_reverse]
    exact ⟨hpos', hle⟩

/-- Settles O20, through the library's base ten digits. -/
theorem decimalRendering : Obligations.DecimalRendering := by
  refine ⟨rfl, fun v hv => ?_, fun v hv => ?_, fun w => ?_⟩
  · have hpos : 0 < v.natAbs := by omega
    rw [dec_of_nonneg (by omega), decNat_value hpos]
    exact ⟨decNat_bytes hpos, fun b => decNat_head hpos, by omega⟩
  · rw [dec_of_neg hv, dec_of_nonneg (by omega), Int.natAbs_neg]
  · have hbound : w.toInt.natAbs < 10 ^ 10 := by
      have hlo := BitVec.le_toInt w
      have hhi := BitVec.toInt_lt (x := w)
      omega
    have hlen := decNat_length (by omega) hbound
    rcases lt_or_ge w.toInt 0 with hneg | hnonneg
    · rw [dec_of_neg hneg, List.length_cons]
      omega
    · rw [dec_of_nonneg hnonneg]
      omega

end Sys2Proof.Machine
end

section
/-! SUPPORT. MIDI_COMMAND under both framings (`42_frame_encoder.md` R123 to R125). -/

namespace Sys2Proof.Machine

/-- MIDI_COMMAND with at most `KMAX` operands, to a transport that takes its events: they are those of the one Command
made of its operands (R125). -/
theorem exec_midiCommand_completes (ws : List Word) (s : State) (hk : ws.length ≤ s.params.kmax.val)
    (ht : s.takes (emitCommand s.params.framing (ws.map BitVec.toInt)).length) :
    exec (.midiCommand ws) s =
      .next (s.completed (emitCommand s.params.framing (ws.map BitVec.toInt)) ⟨0x00, false, 0⟩) := by
  have hexec : exec (.midiCommand ws) s = send ws [ws.map BitVec.toInt] s := if_neg (Nat.not_lt.mpr hk)
  rw [hexec, send_completes ws _ s (by simpa using ht), List.flatMap_singleton, Response.of_none]
  rfl

/-- Settles O24: the frame of the operands, its fields written out. -/
theorem midiCommandChecksummed : Obligations.MidiCommandChecksummed := by
  intro ws s bytes _ hf hk hbytes ht
  have hframe : frame (ws.map BitVec.toInt) = bytes := by
    rw [hbytes]
    simp [frame, field, checksum_eq, List.flatMap_def, Config.hdr0, Config.hdr1, Config.fieldOpen, Config.fieldClose,
      Config.frameEnd, Function.comp_def]
  have hemit : emitCommand s.params.framing (ws.map BitVec.toInt) = bytes.map TxEvent.byte := by
    rw [hf, ← hframe]
    rfl
  rw [exec_midiCommand_completes ws s hk (by simpa [hemit] using ht), hemit]

/-- Settles O25: one unit for each operand, written out. -/
theorem midiCommandSimple : Obligations.MidiCommandSimple := by
  intro ws s events _ hf hk hevents ht
  have hemit : emitCommand s.params.framing (ws.map BitVec.toInt) = events := by
    rw [hf, hevents]
    simp [emitCommand, simpleUnit, List.flatMap_def, Config.simpleOpen, Config.simpleClose, Function.comp_def]
  rw [exec_midiCommand_completes ws s hk (by rwa [hemit]), hemit]

end Sys2Proof.Machine
end

section
/-! SUPPORT. What an operation leaves when the transport takes everything (`43_message_ops.md` R157): its TX events, its
status and its result as functions of the instruction, the parameters and the sensor's answer. -/

namespace Sys2Proof.Machine

/-- The result an operation answers when its status is OK; `reading` is the sensor's answer to a read (R103 to R105,
R156). -/
def resultIfOk (reading : Axis → Word) : Instr → Option Int
  | .clamp v => some (clamp (slotValue v))
  | .lscale v fl fh tl th =>
    some (linearScale (slotValue v) (slotValue fl) (slotValue fh) (slotValue tl) (slotValue th))
  | .ascale r => some (accelerationScale (slotValue r))
  | .acceleration w => (axisOf w).map fun a => accelerationScale (slotValue (reading a))
  | .midiCommand _ | .midiMessage _ _ | .midiScaled _ _ _ _ _ _ | .switchOn _ | .switchOff _ | .toggle _ | .bang _ =>
    none

/-- The response of an operation, told by the parameters, the sensor's answer and the instruction (R86, R157). -/
def responseOf (p : Params) (reading : Axis → Word) (i : Instr) : Response :=
  Response.of (expectedStatus p i) ((resultIfOk reading i).map resultWord)

/-- Only ACCELERATION looks at the sensor. -/
theorem resultIfOk_congr {i : Instr} {f g : Axis → Word} (h : (∃ w, i = .acceleration w) → ∀ a, f a = g a) :
    resultIfOk f i = resultIfOk g i := by
  cases i with
  | acceleration w => rw [funext (h ⟨w, rfl⟩)]
  | _ => rfl

/-- An operation with a result sends no Command. -/
theorem commandsIfOk_of_result {i : Instr} {reading : Axis → Word} {v : Int} (hv : resultIfOk reading i = some v) :
    commandsIfOk i = [] := by
  cases i with
  | clamp | lscale | ascale | acceleration => rfl
  | _ => cases hv

/-- The status is OK exactly when the request is legal and its source range is not degenerate (R181, R182). -/
theorem expectedStatus_eq_ok_iff (p : Params) (i : Instr) :
    expectedStatus p i = .ok ↔ i.legal p = true ∧ i.degenerate = false := by
  cases hl : i.legal p <;> cases hd : i.degenerate <;> simp [expectedStatus, hl, hd]

/-- An operation whose status is OK and which has no result sends at least one Command. -/
theorem commandsOf_ne_nil_of_no_result {p : Params} {i : Instr} {reading : Axis → Word} (hst : expectedStatus p i = .ok)
    (hv : resultIfOk reading i = none) : commandsOf p i ≠ [] := by
  rw [commandsOf, if_pos hst]
  cases i with
  | acceleration w =>
    have haxis : (axisOf w).isSome = true :=
      (axisOf_isSome_iff p w).mpr ((expectedStatus_eq_ok_iff p _).mp hst).1
    rw [Option.map_eq_none_iff.mp hv] at haxis
    cases haxis
  | clamp | lscale | ascale => cases hv
  | _ => simp [commandsIfOk]

/-- An operation whose status is OK and which has a result answers it, ACCELERATION after its read. -/
theorem exec_answers {i : Instr} {s : State} {v : Int} (hst : expectedStatus s.params i = .ok)
    (hv : resultIfOk s.reading i = some v) : ∃ s', Reads i s s' ∧ exec i s = answer i.operands v s' := by
  cases i with
  | clamp w | ascale w =>
    cases hv
    exact ⟨s, .inl rfl, rfl⟩
  | lscale w fl fh tl th =>
    cases hv
    have hne : fh ≠ fl := of_decide_eq_false ((expectedStatus_eq_ok_iff _ _).mp hst).2
    exact ⟨s, .inl rfl, if_neg (by rwa [slotValue_eq, slotValue_eq, slotValue_inj])⟩
  | acceleration w =>
    obtain ⟨a, hax, rfl⟩ := Option.map_eq_some_iff.mp hv
    exact ⟨readAcc s a, .inr ⟨w, a, rfl, hax, rfl⟩, by simp [exec, execAcceleration, hax, Instr.operands]⟩
  | _ => cases hv

/-- A response to a fault carries no result, whatever the latch holds (R86). -/
theorem Response.of_fault {st : Status} (hst : st ≠ .ok) (res : Option ResultWord) :
    Response.of st res = Response.of st none := by
  cases st with
  | ok => exact absurd rfl hst
  | invalidRange | illegalRequest => rfl

/-- With a transport that takes everything, an operation completes in one move, after at most its one ACC read. -/
theorem exec_completes (i : Instr) (s : State) (hroom : s.room = none) :
    ∃ s', Reads i s s' ∧
      exec i s = .next (s'.completed (expectedTx s.params i) (responseOf s.params s.reading i)) := by
  obtain ⟨res, s', hreads, hexec, hres⟩ := exec_launches i s
  obtain ⟨hparams, -, -, -, -, -, -, hroom', -⟩ := hreads.unchanged
  have hcompletes := launch_completes i.operands (commandsOf s.params i) (expectedStatus s.params i) res s'
    (by simp [State.takes, hroom', hroom])
  rw [hcompletes, hparams, commandsOf_tx] at hexec
  unfold responseOf
  by_cases hst : expectedStatus s.params i = .ok
  · cases hv : resultIfOk s.reading i with
    | none =>
      rw [hres (commandsOf_ne_nil_of_no_result hst hv)] at hexec
      exact ⟨s', hreads, hexec⟩
    | some v =>
      obtain ⟨u, hreads', hanswer⟩ := exec_answers hst hv
      refine ⟨u, hreads', ?_⟩
      rw [hanswer, answer_spec, ← commandsOf_tx, commandsOf, if_pos hst, commandsIfOk_of_result hv, hst]
      rfl
  · rw [Response.of_fault hst] at hexec
    exact ⟨s', hreads, by rw [hexec, Response.of_fault hst (Option.map _ _)]⟩

/-- What such a move leaves on TX and RSP: nothing of the state's histories decides what is appended (R157). -/
theorem exec_appends (i : Instr) (s : State) (hroom : s.room = none) :
    ∃ t, exec i s = .next t ∧ t.tx = s.tx ++ expectedTx s.params i ∧
      t.rsp = s.rsp ++ [responseOf s.params s.reading i] ∧ t.op = none := by
  obtain ⟨s', hreads, hexec⟩ := exec_completes i s hroom
  obtain ⟨-, -, -, -, -, hrsp, htx, -⟩ := hreads.unchanged
  exact ⟨_, hexec, by simp [htx], by simp [hrsp], rfl⟩

/-- Settles O35: what an operation appends is told by the instruction, the parameters and the sensor's answer, and these
are the same in both machines. -/
theorem noOperationRemembers : Obligations.NoOperationRemembers := by
  intro i s₁ s₂ _ _ hroom₁ hroom₂ hparams hreading
  obtain ⟨t₁, hexec₁, htx₁, hrsp₁, hop₁⟩ := exec_appends i s₁ hroom₁
  obtain ⟨t₂, hexec₂, htx₂, hrsp₂, hop₂⟩ := exec_appends i s₂ hroom₂
  have hresponse : responseOf s₂.params s₂.reading i = responseOf s₁.params s₁.reading i := by
    rw [responseOf, responseOf, hparams, resultIfOk_congr hreading]
  rw [hresponse] at hrsp₂
  rw [← hparams] at htx₂
  exact ⟨_, _, t₁, t₂, hexec₁, hexec₂, htx₁, htx₂, hrsp₁, hrsp₂, hop₁, hop₂⟩

end Sys2Proof.Machine
end

section
/-! SUPPORT. The status of every complete request and what a fault leaves (`60_exceptions.md` R181, R182, R184,
R185). -/

namespace Sys2Proof.Machine

/-! ### What is not malformed decodes -/

/-- The opcodes of a fixed operand count with that count (R80, R82). -/
def fixedCountRows : List (Nat × Nat) :=
  [(0x01, 1), (0x02, 5), (0x03, 1), (0x11, 2), (0x12, 6), (0x13, 1), (0x14, 1), (0x15, 1), (0x16, 1), (0x20, 1)]

/-- The decoder accepts the words of every such row; the operand words tell which rows are meant (R82). -/
theorem decodeOperands_of_row {op : BitVec 8} {xs : List Word} (hrow : (op.toNat, xs.length) ∈ fixedCountRows) :
    ∃ i, decodeOperands op xs = .ok i := by
  match xs with
  | [] | [_, _, _] | [_, _, _, _] | _ :: _ :: _ :: _ :: _ :: _ :: _ :: _ => simp [fixedCountRows] at hrow
  | [_] =>
    have hop : op.toNat ∈ [0x01, 0x03, 0x13, 0x14, 0x15, 0x16, 0x20] := by simpa [fixedCountRows] using hrow
    simp only [List.mem_cons, List.not_mem_nil, or_false] at hop
    rcases hop with hop | hop | hop | hop | hop | hop | hop <;> rw [decodeOperands, hop] <;> exact ⟨_, rfl⟩
  | [_, _] | [_, _, _, _, _] | [_, _, _, _, _, _] =>
    have hop := by simpa [fixedCountRows] using hrow
    rw [decodeOperands, hop]
    exact ⟨_, rfl⟩

/-- What is not malformed decodes: without reserved bits, the table's opcodes and operand counts are all there is to
refuse (R81 to R83). -/
theorem decode_of_not_malformed {h : Word} {xs : List Word} (hm : ¬ Malformed h.toNat xs.length) :
    ∃ i, decode h xs = .ok i := by
  simp only [Malformed, not_or, not_le, not_not, not_exists, not_and] at hm
  obtain ⟨hres, hop, hcount⟩ := hm
  by_cases hmidi : h.toNat % 256 = 0x10
  · exact ⟨_, decode_midiCommand xs hres hmidi⟩
  · have hdecode : decode h xs = decodeOperands (opcodeField h) xs :=
      if_neg (not_not.mpr ((reservedField_eq_zero_iff h).mpr hres))
    have hrows : h.toNat % 256 ∈ fixedCountRows.map Prod.fst := by simpa [fixedCountRows, hmidi] using hop
    obtain ⟨⟨op, k⟩, hrow, rfl⟩ := List.mem_map.mp hrows
    rw [hdecode]
    exact decodeOperands_of_row (by rwa [opcodeField_eq, hcount k hrow])

/-! ### The step that consumes a request -/

/-- A step that consumes a request whose status is a fault (R184). -/
theorem step_idle_fault {s : State} {h : Word} {xs rest : List Word} (hs : s.schedule = []) (ho : s.op = none)
    (hq : splitRequest s.req = some (h, xs, rest)) (hf : requestStatus s.params ⟨h, xs⟩ ≠ .ok) :
    step s =
      .next ((s.consumed ⟨h, xs⟩ rest).completed [] ⟨(requestStatus s.params ⟨h, xs⟩).code, false, 0⟩) := by
  rw [step_idle_request s h xs rest hs ho hq]
  exact runRequest_of_fault ⟨h, xs⟩ (s.consumed ⟨h, xs⟩ rest) hf

/-- A step that consumes a request answers its status, a fault without a result, or leaves an operation in progress that
will answer OK (R42, R49, R184). -/
theorem step_idle_answers {s : State} {h : Word} {xs rest : List Word} {st : Status} (hs : s.schedule = [])
    (ho : s.op = none) (hq : splitRequest s.req = some (h, xs, rest)) (hst : requestStatus s.params ⟨h, xs⟩ = st) :
    ∃ t, step s = .next t ∧
      ((t.op = none ∧ ∃ r, t.rsp = s.rsp ++ [r] ∧ r.status = st.code ∧
          (st.code ≠ 0x00 → r = ⟨st.code, false, 0⟩)) ∨
        (t.rsp = s.rsp ∧ st.code = 0x00 ∧ ∃ o, t.op = some o ∧ o.status.code = st.code)) := by
  by_cases hok : st = .ok
  · obtain ⟨cs, res, s', hreads, hrun, -, -⟩ := runRequest_launches ⟨h, xs⟩ (s.consumed ⟨h, xs⟩ rest)
    obtain ⟨-, -, -, -, -, hrsp, -⟩ := hreads.unchanged
    rw [State.consumed_params, hst, hok] at hrun
    rw [hok]
    refine ⟨_, (step_idle_request s h xs rest hs ho hq).trans hrun, ?_⟩
    obtain ⟨-, ⟨hop, hanswered, -⟩ | ⟨o, hop, hstatus, hkept, -⟩⟩ := launch_accounts xs cs .ok res s'
    · exact .inl ⟨hop, _, by rw [hanswered, hrsp]; rfl, Response.of_status _ _, fun hne => absurd rfl hne⟩
    · exact .inr ⟨hkept.trans hrsp, rfl, o, hop, by rw [hstatus]⟩
  · have hstep := step_idle_fault hs ho hq (hst ▸ hok)
    rw [hst] at hstep
    exact ⟨_, hstep, .inl ⟨rfl, _, rfl, rfl, fun _ => rfl⟩⟩

/-- The status of an operation, told by the two checks on its operands, legality first (R181, R182, R185). -/
theorem expectedStatus_cases (p : Params) (i : Instr) :
    (i.legal p = false → expectedStatus p i = .illegalRequest) ∧
    (i.legal p = true → i.degenerate = true → expectedStatus p i = .invalidRange) ∧
    (i.legal p = true → i.degenerate = false → expectedStatus p i = .ok) := by
  refine ⟨fun hl => ?_, fun hl hd => ?_, fun hl hd => ?_⟩ <;> simp [expectedStatus, *]

/-! ### The obligations on faults -/

/-- Settles O11: the step runs the consumed request, and one whose status is a fault launches neither a read nor a
Command. -/
theorem faultLeavesNoTrace : Obligations.FaultLeavesNoTrace :=
  fun _ _ _ _ hs ho hq hf => step_idle_fault hs ho hq hf

/-- Settles O10: the code answered is that of `requestStatus`, which the decoder tells for a malformed request and
`expectedStatus` for one that decodes. -/
theorem statusOfEveryRequest : Obligations.StatusOfEveryRequest := by
  intro s h xs rest hs ho hreq hlen
  have hq : splitRequest s.req = some (h, xs, rest) := hreq ▸ splitRequest_of_length rest hlen
  obtain ⟨t, hstep, hout⟩ := step_idle_answers hs ho hq rfl
  refine ⟨t, _, hstep, hout, fun hm => ?_, fun hm => ?_⟩
  · rw [requestStatus_of_malformed _ hm]
    rfl
  · obtain ⟨i, hd⟩ := decode_of_not_malformed hm
    obtain ⟨hillegal, hdegenerate, hok⟩ := expectedStatus_cases s.params i
    have hst : requestStatus s.params ⟨h, xs⟩ = expectedStatus s.params i := by simp [requestStatus, hd]
    rw [hst]
    exact ⟨i, hd, fun hl => congrArg _ (hillegal hl), fun hl hg => congrArg _ (hdegenerate hl hg),
      fun hl hg => congrArg _ (hok hl hg)⟩

end Sys2Proof.Machine
end

section
/-! SUPPORT. Requests as words: encoding beside decoding, and the opcode table (`30_encoding.md` R76 to R80). -/

namespace Sys2Proof

/-- Header words with the same three fields are the same word (R76). -/
theorem header_ext {h h' : Word} (hr : reservedField h = reservedField h') (hc : countField h = countField h')
    (ho : opcodeField h = opcodeField h') : h = h' := by
  have hr' := congrArg BitVec.toNat hr
  have ho' := congrArg BitVec.toNat ho
  have hlt := h.isLt
  have hlt' := h'.isLt
  rw [countField_eq, countField_eq] at hc
  rw [opcodeField_eq, opcodeField_eq] at ho'
  simp only [reservedField, BitVec.extractLsb'_toNat, Nat.shiftRight_eq_div_pow] at hr'
  apply BitVec.eq_of_toNat_eq
  omega

/-- A well-formed instruction's operand count fits the header's field `n` (R76). -/
theorem operands_length_le {i : Instr} (hw : i.wellFormed = true) : i.operands.length ≤ 255 := by
  cases i with
  | midiCommand vs => exact of_decide_eq_true hw
  | _ => simp [Instr.operands]

/-- An instruction whose operand count fits the header is well formed. -/
theorem wellFormed_of_length_le {i : Instr} (hl : i.operands.length ≤ 255) : i.wellFormed = true := by
  cases i with
  | midiCommand vs => exact decide_eq_true hl
  | _ => rfl

/-- The fields of the header of a well-formed instruction (R76). -/
theorem header_fields_of_wellFormed {i : Instr} (hw : i.wellFormed = true) :
    countField i.header = i.operands.length ∧ reservedField i.header = 0 ∧ opcodeField i.header = i.opcode := by
  obtain ⟨hcount, hreserved, hopcode, -⟩ := Laws.HeaderFields.of_count i (operands_length_le hw) hw
  exact ⟨hcount, hreserved, hopcode⟩

/-- An instruction's opcode and operands select it (R80). -/
theorem decodeOperands_opcode (i : Instr) : decodeOperands i.opcode i.operands = .ok i := by
  cases i <;> rfl

/-- Decoding the words of a well-formed instruction gives it back. -/
theorem decode_header_operands {i : Instr} (hw : i.wellFormed = true) : decode i.header i.operands = .ok i := by
  obtain ⟨-, hreserved, hopcode⟩ := header_fields_of_wellFormed hw
  rw [decode, if_neg (not_not.mpr hreserved), hopcode, decodeOperands_opcode]

/-- The request a well-formed instruction's words make is split off whole (R78). -/
theorem splitRequest_encode {i : Instr} (rest : List Word) (hw : i.wellFormed = true) :
    splitRequest (encode i ++ rest) = some (i.header, i.operands, rest) :=
  splitRequest_complete i.header i.operands rest (header_fields_of_wellFormed hw).1.symm

/-- A header that decodes with the operand words it announces is the instruction's own header. -/
theorem header_eq_of_decode {h : Word} {xs : List Word} {i : Instr} (hl : xs.length = countField h)
    (hd : decode h xs = .ok i) : h = i.header ∧ i.wellFormed = true := by
  obtain ⟨hreserved, hopcode⟩ := decode_fields hd
  have hops : i.operands = xs := Machine.decode_operands hd
  have hw : i.wellFormed = true := wellFormed_of_length_le (by rw [hops, hl, countField_eq]; omega)
  obtain ⟨hcount', hreserved', hopcode'⟩ := header_fields_of_wellFormed hw
  refine ⟨header_ext ?_ ?_ ?_, hw⟩
  · rw [hreserved, hreserved']
  · rw [hcount', hops, hl]
  · rw [hopcode']
    exact BitVec.eq_of_toNat_eq hopcode

/-- Settles O1: the header's fields of a well-formed instruction tell its length and its operation. -/
theorem decodeEncodeRoundTrip : Obligations.DecodeEncodeRoundTrip :=
  fun _ rest hw => ⟨splitRequest_encode rest hw, decode_header_operands hw⟩

/-- Settles O2: the decoder determines the header's three fields, and they determine the header. -/
theorem decodedWordsAreTheEncoding : Obligations.DecodedWordsAreTheEncoding := by
  intro ws h xs rest i hs hd
  obtain ⟨hl, rfl⟩ := splitRequest_some hs
  obtain ⟨rfl, hw⟩ := header_eq_of_decode hl hd
  exact ⟨by rw [encode, Machine.decode_operands hd, List.cons_append], hw⟩

/-! ### The opcode table -/

/-- Masking a header with the mask of MIDI_COMMAND's row clears the count field and nothing else (R80). -/
theorem fields_of_masked (h : Word) :
    reservedField (h &&& 0xFFFF00FF) = reservedField h ∧ countField (h &&& 0xFFFF00FF) = 0 ∧
    opcodeField (h &&& 0xFFFF00FF) = opcodeField h := by
  refine ⟨?_, ?_, ?_⟩
  · rw [reservedField, BitVec.extractLsb'_and]
    exact BitVec.and_allOnes
  · rw [countField, BitVec.extractLsb'_and]
    exact congrArg BitVec.toNat (BitVec.and_zero (x := h.extractLsb' 8 8))
  · rw [opcodeField, BitVec.extractLsb'_and]
    exact BitVec.and_allOnes

/-- A header matches the row of MIDI_COMMAND exactly when its reserved bits are zero and its opcode is `0x10`; the
count is free (R80). -/
theorem matches_midiCommand_iff (h : Word) :
    h &&& 0xFFFF00FF = 0x00000010 ↔ reservedField h = 0 ∧ opcodeField h = 0x10 := by
  obtain ⟨hreserved, hcount, hopcode⟩ := fields_of_masked h
  constructor
  · intro heq
    rw [heq] at hreserved hopcode
    exact ⟨hreserved.symm, hopcode.symm⟩
  · rintro ⟨hr, ho⟩
    exact header_ext (hreserved.trans hr) hcount (hopcode.trans ho)

/-- The header of a well-formed instruction matches a row of the table (R80). -/
theorem header_matches_row {i : Instr} (hw : i.wellFormed = true) :
    ∃ r ∈ opcodeTable, i.header &&& r.mask = r.pattern := by
  cases i with
  | midiCommand vs =>
    obtain ⟨-, hreserved, hopcode⟩ := header_fields_of_wellFormed hw
    exact ⟨⟨"MIDI_COMMAND", 0x00000010, 0xFFFF00FF⟩, by decide, (matches_midiCommand_iff _).mpr ⟨hreserved, hopcode⟩⟩
  | _ => simp [opcodeTable, Instr.header, Instr.operands, Instr.opcode]

/-- Every row's mask covers the opcode, so a header that matches the row has the row's opcode (R80). -/
theorem opcodeField_of_matches_row {h : Word} {r : OpcodeRow} (hr : r ∈ opcodeTable) (hm : h &&& r.mask = r.pattern) :
    opcodeField h = opcodeField r.pattern := by
  have hmask : ∀ r ∈ opcodeTable, opcodeField r.mask = BitVec.allOnes 8 := by decide
  rw [← hm, opcodeField, opcodeField, BitVec.extractLsb'_and]
  exact ((congrArg _ (hmask r hr)).trans BitVec.and_allOnes).symm

/-- The rows' opcodes tell their operations apart (R80). -/
theorem mnemonic_of_row_opcode (i : Instr) :
    ∀ r ∈ opcodeTable, opcodeField r.pattern = i.opcode → i.mnemonic = r.mnemonic := by
  cases i <;> simp only [Instr.opcode, Instr.mnemonic] <;> decide

/-- A header that matches a row, with the operand words it announces, is not malformed (R81 to R83). -/
theorem not_malformed_of_matches_row {h : Word} {xs : List Word} (hl : xs.length = countField h) {r : OpcodeRow}
    (hr : r ∈ opcodeTable) (hm : h &&& r.mask = r.pattern) : ¬ Machine.Malformed h.toNat xs.length := by
  rw [hl]
  simp only [opcodeTable, List.mem_cons, List.not_mem_nil, or_false] at hr
  rcases hr with rfl | rfl | rfl | rfl | rfl | rfl | rfl | rfl | rfl | rfl | rfl
  case inr.inr.inr.inl =>
    obtain ⟨hreserved, hopcode⟩ := (matches_midiCommand_iff h).mp hm
    rw [reservedField_eq_zero_iff] at hreserved
    have hop : h.toNat % 256 = 0x10 := by rw [← opcodeField_eq, hopcode]; rfl
    simp [Machine.Malformed, hop, hreserved]
  all_goals
    obtain rfl := (BitVec.and_allOnes (x := h)).symm.trans hm
    simp [Machine.Malformed, countField]

/-- Settles O3: a row's match and the decoder both come down to the header's three fields. -/
theorem decoderFollowsOpcodeTable : Obligations.DecoderFollowsOpcodeTable := by
  intro h xs hl
  have hrow : ∀ r ∈ opcodeTable, h &&& r.mask = r.pattern → ∃ i, decode h xs = .ok i ∧ i.mnemonic = r.mnemonic := by
    intro r hr hm
    obtain ⟨i, hd⟩ := Machine.decode_of_not_malformed (not_malformed_of_matches_row hl hr hm)
    have hop : opcodeField r.pattern = i.opcode := by
      rw [← opcodeField_of_matches_row hr hm]
      exact BitVec.eq_of_toNat_eq (decode_fields hd).2
    exact ⟨i, hd, mnemonic_of_row_opcode i r hr hop⟩
  refine ⟨⟨fun ⟨i, hd⟩ => ?_, fun ⟨r, hr, hm⟩ => ?_⟩, hrow⟩
  · obtain ⟨rfl, hw⟩ := header_eq_of_decode hl hd
    exact header_matches_row hw
  · obtain ⟨i, hd, -⟩ := hrow r hr hm
    exact ⟨i, hd⟩

/-- Settles O4: the decoder run on the seven requests. -/
theorem specWordsDecode : Obligations.SpecWordsDecode := by
  unfold Obligations.SpecWordsDecode
  decide

end Sys2Proof

namespace Sys2Proof.Machine

/-- With no turn scheduled it is the block that moves (log 6). -/
theorem step_of_schedule_nil {s : State} (hs : s.schedule = []) : step s = blockMove s := by
  simp [step, move, hs]

/-- The turn at the head of the schedule is used up and taken (log 6). -/
theorem step_of_turn {s : State} {t : Turn} {ts : List Turn} (hs : s.schedule = t :: ts) :
    step s = takeTurn t (s.setSchedule ts) := by
  simp [step, move, hs]

/-- The move of an idle block with the words of a well-formed instruction first on REQ (R41). -/
theorem blockMove_encode {i : Instr} {s : State} {rest : List Word} (hw : i.wellFormed = true) (ho : s.op = none)
    (hreq : s.req = encode i ++ rest) : blockMove s = exec i (s.consumed ⟨i.header, i.operands⟩ rest) := by
  simp [blockMove, ho, hreq, splitRequest_encode rest hw, runRequest, decode_header_operands hw, consume_eq_consumed]

/-- Settles O6: both ways it is the block's move. -/
theorem stepRunsDecodedRequest : Obligations.StepRunsDecodedRequest := by
  intro i s rest hw ho hreq
  refine ⟨fun hs => ?_, fun ts hs => ?_⟩
  · rw [step_of_schedule_nil hs, blockMove_encode hw ho hreq]
  · rw [step_of_turn hs]
    exact blockMove_encode (s := s.setSchedule ts) hw ho hreq

end Sys2Proof.Machine
end

section
/-! SUPPORT. What one move leaves of an operation in progress (`20_memory.md` R43, R49; `10_state.md` R29). -/

namespace Sys2Proof.Machine

/-- What going on with the operation `o` makes of the state `s`: `sent` is handed over and the rest is outstanding; the
one response comes exactly when nothing is (R42, R49). -/
structure Advances (o : Operation) (sent : List TxEvent) (s t : State) : Prop where
  remaining : sent ++ t.outstanding = o.remaining s.params.framing
  tx : t.tx = s.tx ++ sent
  room : t.room = s.room.map (· - sent.length)
  outcome : (t.op = none ∧ t.outstanding = [] ∧ t.pc = s.pc + 1 ∧ t.rsp = s.rsp ++ [o.response]) ∨
    ∃ o', t.op = some o' ∧ o'.status = o.status ∧ t.outstanding ≠ [] ∧ t.pc = s.pc ∧ t.rsp = s.rsp

theorem advance_advances {s : State} {o : Operation} (ho : s.op = some o) : ∃ sent, Advances o sent s (advance s) := by
  rcases advance_cases s o ho with hc | ⟨k, hr, hk, hc⟩
  · rw [hc]
    exact ⟨_, by simp [State.outstanding], rfl, rfl, .inl ⟨rfl, rfl, rfl, rfl⟩⟩
  · obtain ⟨-, hrest, -, hstatus, -⟩ := Operation.handOver_spec s.params.framing k o
    have hout : (advance s).outstanding = (o.remaining s.params.framing).drop k := by rw [hc]; exact hrest
    refine ⟨(o.remaining s.params.framing).take k, ?_, ?_, ?_, .inr ⟨(o.handOver s.params.framing k).2, ?_⟩⟩
    · rw [hout, List.take_append_drop]
    · rw [hc]
    · simp [hc, hr, List.length_take, Nat.min_eq_left hk.le]
    · refine ⟨by rw [hc], hstatus, ?_, by rw [hc], by rw [hc]⟩
      simp [hout, List.drop_eq_nil_iff, hk]

/-- The events a move hands over are the first of those remaining, as many as the transport takes (R43, R49). -/
theorem advance_tx {s : State} {o : Operation} (ho : s.op = some o) :
    (advance s).tx = s.tx ++ (o.remaining s.params.framing).take
      (s.allowance (o.remaining s.params.framing).length) := by
  obtain ⟨hsent, -⟩ := Operation.handOver_spec s.params.framing (s.allowance (o.remaining s.params.framing).length) o
  simp only [advance, ho, ← hsent]
  split <;> rfl

/-- Going on with an operation takes nothing from the other channels (R41). -/
theorem advance_unchanged (s : State) :
    (advance s).params = s.params ∧ (advance s).req = s.req ∧ (advance s).reqLog = s.reqLog ∧
    (advance s).accLog = s.accLog ∧ (advance s).accIn = s.accIn ∧ (advance s).schedule = s.schedule := by
  cases ho : s.op with
  | none => simp [ho]
  | some o => rcases advance_cases s o ho with hc | ⟨k, -, -, hc⟩ <;> simp [hc]

/-- An operation the Frame Encoder of which, if there is one, is going through its Command, as a sending operation's is
(R22, R24, R29). -/
def Operation.Encodes (f : Framing) (o : Operation) : Prop :=
  ∀ e, o.encoder = some e → e.pending <:+ emitCommand f e.values ∧ e.checksum = accumulator f e.values ∧
    o.status = .ok ∧ o.result = none

theorem Operation.Sending.encodes {f : Framing} {o : Operation} (h : o.Sending f) : o.Encodes f := by
  obtain ⟨e, he, -, hsuffix, hsum, hstatus, hres⟩ := h
  intro e' he'
  obtain rfl : e = e' := Option.some.inj (he.symm.trans he')
  exact ⟨hsuffix, hsum, hstatus, hres⟩

/-- An operation starts at the beginning of its first Command. -/
theorem Operation.start_encodes (f : Framing) (slots : List Word) {cs : List Command} {st : Status}
    {res : Option ResultWord} (h : cs ≠ [] → res = none ∧ st = .ok) :
    (Operation.start f slots cs st res).Encodes f := by
  intro e he
  cases cs with
  | nil => cases he
  | cons c cs =>
    obtain ⟨rfl, rfl⟩ := h (List.cons_ne_nil c cs)
    cases he
    exact ⟨List.suffix_refl _, rfl, rfl, rfl⟩

/-- An operation that is held is in the middle of a Command (R29). -/
theorem Operation.handOver_sending {f : Framing} {k : Nat} {o : Operation} (h : o.Encodes f)
    (hk : k < (o.remaining f).length) : (o.handOver f k).2.Sending f := by
  obtain ⟨-, -, -, hstatus, hres, hsome⟩ := Operation.handOver_spec f k o
  cases he : o.encoder with
  | none => simp [Operation.remaining, he] at hk
  | some e =>
    obtain ⟨hsuffix, hsum, hok, hnone⟩ := h e he
    obtain ⟨e', he'⟩ := Option.isSome_iff_exists.mp (hsome.mpr ⟨by simp [he], hk⟩)
    obtain ⟨hpending, hsuffix', hsum'⟩ := encodeUpTo_keeps_sending f o.queued e k hsuffix hsum e'
      (by simpa [Operation.handOver, he] using he')
    exact ⟨e', he', hpending, hsuffix', hsum', hstatus.trans hok, hres.trans hnone⟩

theorem advance_busyOk {s : State} (h : ∀ o, s.op = some o → o.Encodes s.params.framing) : (advance s).BusyOk := by
  intro o' ho'
  cases ho : s.op with
  | none => simp [ho] at ho'
  | some o =>
    rcases advance_cases s o ho with hc | ⟨k, -, hk, hc⟩
    · rw [hc] at ho'
      cases ho'
    · rw [hc] at ho' ⊢
      obtain rfl := Option.some.inj ho'
      exact Operation.handOver_sending (h o ho) hk

end Sys2Proof.Machine
end

section
/-! SUPPORT. A move of the block: it takes something up, or waits, and then goes on as far as the transport lets it
(`20_memory.md` R41). -/

namespace Sys2Proof.Machine

/-- What the block takes up in a move: the operation in progress, or the request at the front of REQ, consumed and
started (R41, R78). -/
inductive TakesUp (s : State) : State → Prop
  | operation (o : Operation) (hop : s.op = some o) : TakesUp s s
  | request (h : Word) (xs rest : List Word) (cs : List Command) (res : Option ResultWord) (s' : State)
      (hop : s.op = none) (hsplit : splitRequest s.req = some (h, xs, rest))
      (hreads : ReadsOne ⟨h, xs⟩ (consume ⟨h, xs⟩ rest s) s')
      (htx : cs.flatMap (emitCommand s.params.framing) = requestTx s.params ⟨h, xs⟩)
      (hcs : cs ≠ [] → res = none ∧ requestStatus s.params ⟨h, xs⟩ = .ok) :
      TakesUp s (s'.setOp (some (Operation.start s.params.framing xs cs (requestStatus s.params ⟨h, xs⟩) res)))

theorem blockMove_takesUp {s t : State} (h : blockMove s = .next t) :
    (s.op = none ∧ splitRequest s.req = none ∧ t = s) ∨ ∃ u, TakesUp s u ∧ t = advance u := by
  rcases blockMove_cases h with ⟨o, ho, rfl⟩ | hwait | ⟨hd, xs, rest, cs, res, s', ho, hq, hreads, rfl, htx, hcs⟩
  · exact .inr ⟨s, .operation o ho, rfl⟩
  · exact .inl hwait
  · have hparams : s'.params = s.params := hreads.unchanged.1
    refine .inr ⟨_, .request hd xs rest cs res s' ho hq hreads htx hcs, ?_⟩
    rw [launch, hparams]

section
variable {s u : State} (h : TakesUp s u)
include h

/-- Taking a request up adds to the histories of REQ and ACC and touches neither TX nor RSP. -/
theorem TakesUp.unchanged : u.params = s.params ∧ u.pc = s.pc ∧ u.rsp = s.rsp ∧ u.tx = s.tx ∧ u.room = s.room ∧
    u.schedule = s.schedule ∧ s.reqLog <+: u.reqLog ∧ s.accLog <+: u.accLog := by
  cases h with
  | operation o hop => simp
  | request h xs rest cs res s' hop hsplit hreads htx hcs =>
    obtain ⟨hparams, hpc, -, -, hlog, hrsp, htx', hroom, hsched, hacc, -⟩ := hreads.unchanged
    exact ⟨hparams, hpc, hrsp, htx', hroom, hsched, ⟨[⟨h, xs⟩], hlog.symm⟩, hacc⟩

theorem TakesUp.busy : ∃ o, u.op = some o ∧ o.remaining s.params.framing = s.upcoming := by
  cases h with
  | operation o hop => exact ⟨o, hop, by simp [State.upcoming, hop]⟩
  | request h xs rest cs res s' hop hsplit hreads htx hcs =>
    exact ⟨_, rfl, by simp [Operation.start_remaining, htx, State.upcoming, hop, hsplit]⟩

theorem TakesUp.encodes (hb : s.BusyOk) : ∀ o, u.op = some o → o.Encodes u.params.framing := by
  intro o ho
  rw [h.unchanged.1]
  cases h with
  | operation o' hop => exact (hb o ho).encodes
  | request h xs rest cs res s' hop hsplit hreads htx hcs =>
    cases ho
    exact Operation.start_encodes _ xs hcs

end

/-- The block answers a next state in every move (R184, R187). -/
theorem blockMove_next (s : State) : ∃ t, blockMove s = .next t := by
  unfold blockMove
  split
  next => exact ⟨_, rfl⟩
  next =>
    split
    next => exact ⟨_, rfl⟩
    next h xs rest _ =>
      obtain ⟨cs, res, s', -, hrun, -⟩ := runRequest_launches ⟨h, xs⟩ (consume ⟨h, xs⟩ rest s)
      exact ⟨_, hrun⟩

/-- A move hands over the first of the upcoming events, as many as the transport takes (R43, R49, R53). -/
theorem blockMove_tx {s t : State} (h : blockMove s = .next t) :
    t.tx = s.tx ++ s.upcoming.take (s.allowance s.upcoming.length) := by
  rcases blockMove_takesUp h with ⟨ho, hq, rfl⟩ | ⟨u, hu, rfl⟩
  · simp [State.upcoming, ho, hq]
  · obtain ⟨hparams, -, -, htx, hroom, -⟩ := hu.unchanged
    obtain ⟨o, ho, hrem⟩ := hu.busy
    rw [advance_tx ho, hparams, hrem, htx, State.allowance, State.allowance, hroom]

/-- A move gives no response and keeps `pc`, or one response, with `pc + 1` and the block idle (R25, R42). -/
theorem blockMove_responds {s t : State} (h : blockMove s = .next t) :
    (t.pc = s.pc ∧ t.rsp = s.rsp) ∨
    (t.pc = s.pc + 1 ∧ t.op = none ∧ ∃ o : Operation, t.rsp = s.rsp ++ [o.response]) := by
  rcases blockMove_takesUp h with ⟨-, -, rfl⟩ | ⟨u, hu, rfl⟩
  · exact .inl ⟨rfl, rfl⟩
  · obtain ⟨-, hpc, hrsp, -⟩ := hu.unchanged
    obtain ⟨o, ho, -⟩ := hu.busy
    obtain ⟨sent, hadv⟩ := advance_advances ho
    rw [← hpc, ← hrsp]
    rcases hadv.outcome with ⟨hop, -, hpc', hrsp'⟩ | ⟨-, -, -, -, hpc', hrsp'⟩
    · exact .inr ⟨hpc', hop, o, hrsp'⟩
    · exact .inl ⟨hpc', hrsp'⟩

/-- A move keeps the parameters and adds to the histories (R27, R51). -/
theorem blockMove_histories {s t : State} (h : blockMove s = .next t) :
    t.params = s.params ∧ s.tx <+: t.tx ∧ s.rsp <+: t.rsp ∧ s.reqLog <+: t.reqLog ∧ s.accLog <+: t.accLog := by
  have htx : s.tx <+: t.tx := blockMove_tx h ▸ List.prefix_append _ _
  have hrsp : s.rsp <+: t.rsp := by
    rcases blockMove_responds h with ⟨-, hrsp⟩ | ⟨-, -, o, hrsp⟩ <;> simp [hrsp]
  rcases blockMove_takesUp h with ⟨-, -, rfl⟩ | ⟨u, hu, rfl⟩
  · simp
  · obtain ⟨hparams, -, -, -, -, -, hlog, hacc⟩ := hu.unchanged
    obtain ⟨hparams', -, hlog', hacc', -⟩ := advance_unchanged u
    exact ⟨hparams'.trans hparams, htx, hrsp, hlog' ▸ hlog, hacc' ▸ hacc⟩

/-- A move of the block leaves the schedule alone (log 6). -/
theorem blockMove_schedule {s t : State} (h : blockMove s = .next t) : t.schedule = s.schedule := by
  rcases blockMove_takesUp h with ⟨-, -, rfl⟩ | ⟨u, hu, rfl⟩
  · rfl
  · obtain ⟨-, -, -, -, -, hsched, -⟩ := hu.unchanged
    obtain ⟨-, -, -, -, -, hsched'⟩ := advance_unchanged u
    exact hsched'.trans hsched

/-- A move keeps it that a busy block is sending. -/
theorem blockMove_busyOk {s t : State} (hb : s.BusyOk) (h : blockMove s = .next t) : t.BusyOk := by
  rcases blockMove_takesUp h with ⟨-, -, rfl⟩ | ⟨u, hu, rfl⟩
  · exact hb
  · exact advance_busyOk (hu.encodes hb)

/-- The axis operand of a read names an axis (R89). -/
theorem axis_of_axisOf {w : Word} {a : Axis} (h : axisOf w = some a) : w = 0 ∨ w = 1 ∨ w = 2 := by
  rw [axisOf_eq] at h
  split_ifs at h <;> simp_all

/-- A move makes no ACC read, or one, for the ACCELERATION it consumes (R46). -/
theorem blockMove_reads {s t : State} (h : blockMove s = .next t) :
    t.accLog = s.accLog ∨
    ∃ a v w h, t.accLog = s.accLog ++ [(a, v)] ∧ t.reqLog = s.reqLog ++ [⟨h, [w]⟩] ∧
      decode h [w] = .ok (.acceleration w) ∧ (w = 0 ∨ w = 1 ∨ w = 2) := by
  rcases blockMove_takesUp h with ⟨-, -, rfl⟩ | ⟨u, hu, rfl⟩
  · exact .inl rfl
  · obtain ⟨-, -, hlog, hacc, -⟩ := advance_unchanged u
    rw [hlog, hacc]
    cases hu with
    | operation o hop => exact .inl rfl
    | request hd xs rest cs res s' hop hsplit hreads htx hcs =>
      rcases hreads with rfl | ⟨w, a, hdec, hax, rfl⟩
      · exact .inl rfl
      · obtain rfl : [w] = xs := decode_operands hdec
        exact .inr ⟨a, _, w, hd, rfl, rfl, hdec, axis_of_axisOf hax⟩

end Sys2Proof.Machine
end

section
/-! SUPPORT. The turns of a schedule, and what no step changes (`00_scope.md` R15, `70_reset_and_hazards.md` R201). -/

namespace Sys2Proof.Machine

/-- Settles O44: a turn is a move of the block, alone or inside a reset, or an update of the state. -/
theorem machineNeverStops : Obligations.MachineNeverStops := by
  intro s
  cases hs : s.schedule with
  | nil => rw [step_of_schedule_nil hs]; exact blockMove_next s
  | cons a ts =>
    rw [step_of_turn hs]
    cases a with
    | block => exact blockMove_next _
    | reset d =>
      cases d with
      | none => exact ⟨_, rfl⟩
      | some k =>
        obtain ⟨u, hu⟩ := blockMove_next ((s.setSchedule ts).setRoom (roomUpTo k s.room))
        exact ⟨_, by simp only [takeTurn, resetInside, State.setSchedule_room, hu]; rfl⟩
    | _ => exact ⟨_, rfl⟩

/-- Settles O54: the turn is used up and the named field updated. -/
theorem otherAgentsTurnsDoWhatTheyName : Obligations.OtherAgentsTurnsDoWhatTheyName :=
  fun _ _ => ⟨fun _ hs => step_of_turn hs, fun _ hs => step_of_turn hs, fun _ hs => step_of_turn hs⟩

/-- Settles O42: a reset between two moves is one turn. -/
theorem resetValues : Obligations.ResetValues :=
  ⟨⟨rfl, rfl, rfl, rfl, rfl, rfl, rfl, rfl⟩, fun _ _ hs => step_of_turn hs⟩

/-- Settles O43: inside the reset the block moves with room for `k` events, and what it hands over stays. -/
theorem resetCutsAtAnyPoint : Obligations.ResetCutsAtAnyPoint := by
  intro s k ts hs hroom
  obtain ⟨u, hu⟩ := blockMove_next ((s.setSchedule ts).setRoom (some k))
  obtain ⟨hparams, -⟩ := blockMove_histories hu
  have htx : u.tx = s.tx ++ s.upcoming.take k := blockMove_tx hu
  refine ⟨hardReset ((u.setRsp s.rsp).setRoom none), ?_, htx, rfl, rfl, rfl, rfl, hparams, rfl, blockMove_schedule hu⟩
  rw [step_of_turn hs]
  simp only [takeTurn, resetInside, State.setSchedule_room, hroom, roomUpTo, hu]
  rfl

/-- Every step is at most a move of the block, with some transport, of which the response may be lost and the operation
abandoned: that is what a reset inside the move takes away, and the other turns leave the histories alone. -/
theorem step_at_most_move {s t : State} (h : step s = .next t) :
    ∃ ts r u, (u = s ∨ blockMove ((s.setSchedule ts).setRoom r) = .next u) ∧ t.params = u.params ∧ t.tx = u.tx ∧
      t.reqLog = u.reqLog ∧ t.accLog = u.accLog ∧ (t.rsp = u.rsp ∨ t.rsp = s.rsp) ∧ (t.op = u.op ∨ t.op = none) := by
  rcases step_cases h with ⟨v, hv, hm⟩ | ⟨ts, hagent⟩ | ⟨ts, hreset⟩
  · refine ⟨v.schedule, s.room, t, .inr ?_, rfl, rfl, rfl, rfl, .inl rfl, .inl rfl⟩
    rcases hv with ⟨rfl, -⟩ | ⟨ts, -, rfl⟩ <;> exact hm
  · refine ⟨ts, s.room, s, .inl rfl, ?_⟩
    rcases hagent with ⟨ws, -, rfl⟩ | ⟨r, -, rfl⟩ | ⟨v, -, rfl⟩ <;> simp
  · rcases hreset with ⟨-, rfl⟩ | ⟨k, u, -, hm, rfl⟩
    · exact ⟨ts, s.room, s, .inl rfl, by simp⟩
    · exact ⟨ts, _, u, .inr hm, by simp⟩

theorem step_histories {s t : State} (h : step s = .next t) :
    t.params = s.params ∧ s.tx <+: t.tx ∧ s.rsp <+: t.rsp ∧ s.reqLog <+: t.reqLog ∧ s.accLog <+: t.accLog := by
  obtain ⟨ts, r, u, hu, hparams, htx, hlog, hacc, hrsp, -⟩ := step_at_most_move h
  have hmove : u.params = s.params ∧ s.tx <+: u.tx ∧ s.rsp <+: u.rsp ∧ s.reqLog <+: u.reqLog ∧
      s.accLog <+: u.accLog := by
    rcases hu with rfl | hm
    · simp
    · exact blockMove_histories (s := (s.setSchedule ts).setRoom r) hm
  rw [hparams, htx, hlog, hacc]
  obtain ⟨hparams', htx', hrsp', hlog', hacc'⟩ := hmove
  refine ⟨hparams', htx', ?_, hlog', hacc'⟩
  rcases hrsp with hrsp | hrsp <;> rw [hrsp]
  exact hrsp'

/-- Settles O45: a step is at most a move, which keeps them. -/
theorem parametersNeverChange : Obligations.ParametersNeverChange := fun _ _ h => (step_histories h).1

/-- Settles O46: a step is at most a move, which adds to the histories, and a reset takes back only what the move in it
answered. -/
theorem historiesOnlyGrow : Obligations.HistoriesOnlyGrow := fun _ _ h => (step_histories h).2

/-- Settles O48: a step reads what the move in it reads. -/
theorem onlyAccelerationReads : Obligations.OnlyAccelerationReads := by
  intro s t h
  obtain ⟨ts, r, u, hu, -, -, hlog, hacc, -⟩ := step_at_most_move h
  rw [hlog, hacc]
  rcases hu with rfl | hm
  · exact .inl rfl
  · exact blockMove_reads (s := (s.setSchedule ts).setRoom r) hm

/-- The response of an operation is one of the three codes, a result only with OK (R86). -/
theorem Response.of_wellFormed (st : Status) (res : Option ResultWord) : (Response.of st res).wellFormed := by
  cases st <;> cases res <;> simp [Response.wellFormed, Response.of, Status.code]

theorem blockMove_responsesOk {s t : State} (hok : s.ResponsesOk) (h : blockMove s = .next t) : t.ResponsesOk := by
  intro r hr
  rcases blockMove_responds h with ⟨-, hrsp⟩ | ⟨-, -, o, hrsp⟩ <;> rw [hrsp] at hr
  · exact hok r hr
  · rcases List.mem_append.mp hr with hr | hr
    · exact hok r hr
    · rw [List.mem_singleton.mp hr]
      exact Response.of_wellFormed o.status o.result

/-- Settles O49: the only response a step can add is an operation's. -/
theorem stepKeepsResponsesWellFormed : Obligations.StepKeepsResponsesWellFormed := by
  intro s t hok h
  obtain ⟨ts, r, u, hu, -, -, -, -, hrsp, -⟩ := step_at_most_move h
  have hu' : u.ResponsesOk := by
    rcases hu with rfl | hm
    · exact hok
    · exact blockMove_responsesOk (s := (s.setSchedule ts).setRoom r) hok hm
  intro response hmem
  rcases hrsp with hrsp | hrsp <;> rw [hrsp] at hmem
  · exact hu' response hmem
  · exact hok response hmem

/-- Settles O50: the operation a step leaves in progress is the one the move in it leaves. -/
theorem stepKeepsBusyBlockSending : Obligations.StepKeepsBusyBlockSending := by
  intro s t hb h
  obtain ⟨ts, r, u, hu, hparams, -, -, -, -, hop⟩ := step_at_most_move h
  have hu' : u.BusyOk := by
    rcases hu with rfl | hm
    · exact hb
    · exact blockMove_busyOk (s := (s.setSchedule ts).setRoom r) hb hm
  intro o ho
  rcases hop with hop | hop <;> rw [hop] at ho
  · rw [hparams]
    exact hu' o ho
  · cases ho

end Sys2Proof.Machine
end

section
/-! SUPPORT. A busy block: what its move takes and what it leaves (`20_memory.md` R41, `70_reset_and_hazards.md`
R213, R214). -/

namespace Sys2Proof.Machine

/-- The move of a busy block is to go on with its operation. -/
theorem step_of_busy {s : State} {o : Operation} (hs : s.schedule = []) (ho : s.op = some o) :
    step s = .next (advance s) := by
  rw [step_of_schedule_nil hs, blockMove, ho]

/-- Settles O41: a busy block's move is one advance of its operation. -/
theorem busyBlockAcceptsNothing : Obligations.BusyBlockAcceptsNothing := by
  intro s o hs ho
  obtain ⟨hparams, hreq, hlog, hacc, haccIn, -⟩ := advance_unchanged s
  obtain ⟨sent, hadv⟩ := advance_advances ho
  refine ⟨_, step_of_busy hs ho, hreq, hlog, hacc, haccIn, hparams, sent, hadv.tx, hadv.remaining, ?_⟩
  rcases hadv.outcome with ⟨hop, -, hpc, hrsp⟩ | ⟨o', hop, -, -, hpc, hrsp⟩
  · exact .inl ⟨hop, hrsp, hpc⟩
  · exact .inr ⟨by simp [hop], hrsp, hpc⟩

/-- Handing over nothing in the middle of a Command changes nothing. -/
theorem Operation.handOver_zero {f : Framing} {o : Operation} (h : o.Sending f) : (o.handOver f 0).2 = o := by
  obtain ⟨e, he, hpending, -⟩ := h
  have hpos : 0 < e.pending.length := List.length_pos_iff.mpr hpending
  have hencode : encodeUpTo f o.queued e 0 = ([], some e, o.queued) := by
    unfold encodeUpTo
    simp [hpos]
  simp only [Operation.handOver, he, hencode]
  rw [← he]

/-- A sending operation has something to hand over. -/
theorem Operation.Sending.remaining_pos {f : Framing} {o : Operation} (h : o.Sending f) :
    0 < (o.remaining f).length := by
  obtain ⟨e, he, hpending, -⟩ := h
  have hpos : 0 < e.pending.length := List.length_pos_iff.mpr hpending
  simp only [Operation.remaining, he, List.length_append]
  omega

/-- While the transport takes nothing a sending block stands still (R214). -/
theorem advance_stalled {s : State} {o : Operation} (hb : s.BusyOk) (ho : s.op = some o) (hr : s.room = some 0) :
    advance s = s := by
  obtain ⟨o', hadv, rfl⟩ := advance_stalls s o 0 ho hr (hb o ho).remaining_pos
  rw [hadv, Operation.handOver_zero (hb o ho), List.take_zero, List.append_nil, ← ho, ← hr]

/-- A run goes on from the state its first step answers. -/
theorem run_succ {n : Nat} {s u : State} (h : step s = .next u) : core.run (n + 1) s = core.run n u := by
  have hcore : core.step s = .next u := h
  simp only [Host.Core.run, hcore]

/-- A state the step keeps is kept by every run. -/
theorem run_of_step_eq {s : State} (h : step s = .next s) : ∀ n, core.run n s = .next s
  | 0 => rfl
  | n + 1 => (run_succ h).trans (run_of_step_eq h n)

/-- Settles O39: the one step stands still, so every run does. -/
theorem stalledTransportHangsTheBlock : Obligations.StalledTransportHangsTheBlock := by
  intro s hs hb hop hr
  obtain ⟨o, ho⟩ := Option.ne_none_iff_exists'.mp hop
  have hstep : step s = .next s := by rw [step_of_busy hs ho, advance_stalled hb ho hr]
  exact ⟨hstep, run_of_step_eq hstep⟩

end Sys2Proof.Machine
end

section
/-! SUPPORT. Runs without a reset: the responses, and what the consumed requests give (`20_memory.md` R42, R53,
`42_frame_encoder.md` R126). -/

namespace Sys2Proof.Machine

/-- A step with no reset ahead is a move of the block, or leaves everything of the block as it is. -/
theorem step_noReset_cases {s t : State} (hn : s.noReset) (h : step s = .next t) :
    (∃ ts, ts <:+ s.schedule ∧ blockMove (s.setSchedule ts) = .next t) ∨
    (t.schedule <:+ s.schedule ∧ t.params = s.params ∧ t.pc = s.pc ∧ t.op = s.op ∧ t.reqLog = s.reqLog ∧
      t.rsp = s.rsp ∧ t.tx = s.tx) := by
  rcases step_cases h with ⟨v, ⟨rfl, -⟩ | ⟨ts, hs, rfl⟩, hm⟩ | ⟨ts, hagent⟩ | ⟨ts, hreset⟩
  · exact .inl ⟨_, List.suffix_refl _, hm⟩
  · exact .inl ⟨ts, hs ▸ List.suffix_cons _ _, hm⟩
  · rcases hagent with ⟨ws, hs, rfl⟩ | ⟨r, hs, rfl⟩ | ⟨v, hs, rfl⟩ <;> exact .inr ⟨hs ▸ List.suffix_cons _ _, by simp⟩
  · have hmem : ∃ k, Turn.reset k ∈ s.schedule := by
      rcases hreset with ⟨hs, -⟩ | ⟨k, u, hs, -⟩ <;> exact ⟨_, hs ▸ List.mem_cons_self⟩
    obtain ⟨k, hk⟩ := hmem
    exact absurd rfl (hn _ hk k)

/-- Settles O47: only a move of the block answers. -/
theorem oneResponseOnePc : Obligations.OneResponseOnePc := by
  intro s t hn h
  rcases step_noReset_cases hn h with ⟨ts, -, hm⟩ | ⟨-, -, hpc, -, -, hrsp, -⟩
  · rcases blockMove_responds hm with hnone | ⟨hpc, hop, o, hrsp⟩
    · exact .inl hnone
    · exact .inr ⟨hpc, hop, _, hrsp⟩
  · exact .inl ⟨hpc, hrsp⟩

/-- `State.Faithful` without its clause on the schedule: TX, the statuses and `pc` are what the consumed requests
give. -/
def State.Accounted (s : State) : Prop :=
  s.tx ++ s.outstanding = s.reqLog.flatMap (requestTx s.params) ∧
  s.rsp.map Response.status ++ s.op.toList.map (fun o => o.status.code)
    = s.reqLog.map (fun r => (requestStatus s.params r).code) ∧
  s.pc = s.rsp.length

theorem State.faithful_iff (s : State) : s.Faithful ↔ s.noReset ∧ s.Accounted := Iff.rfl

/-- A request taken up is accounted for: it is on the REQ history, its events are outstanding and its status is still to
come. -/
theorem TakesUp.accounted {s u : State} (h : TakesUp s u) (ha : s.Accounted) : u.Accounted := by
  cases h with
  | operation o hop => exact ha
  | request h xs rest cs res s' hop hsplit hreads htx hcs =>
    obtain ⟨hparams, hpc, -, -, hlog, hrsp, htx', -⟩ := hreads.unchanged
    obtain ⟨htxs, hstatuses, hpcs⟩ := ha
    simp only [State.outstanding, hop, List.append_nil, Option.toList_none, List.map_nil] at htxs hstatuses
    refine ⟨?_, ?_, ?_⟩
    · simp [State.outstanding, Operation.start_remaining, htx, htx', htxs, hlog, hparams]
    · simp [hrsp, hstatuses, hlog, hparams]
    · simp [hpc, hpcs, hrsp]

/-- Going on with an operation moves events from the outstanding ones to TX, and its status, at its end, to RSP. -/
theorem advance_accounted {s : State} {o : Operation} (ho : s.op = some o) (ha : s.Accounted) :
    (advance s).Accounted := by
  obtain ⟨htx, hstatuses, hpc⟩ := ha
  obtain ⟨hparams, -, hlog, -⟩ := advance_unchanged s
  obtain ⟨sent, hadv⟩ := advance_advances ho
  have hout : s.outstanding = o.remaining s.params.framing := by simp [State.outstanding, ho]
  unfold State.Accounted
  rw [hparams, hlog, ← htx, ← hstatuses, ho, hadv.tx, List.append_assoc, hadv.remaining, hout]
  rcases hadv.outcome with ⟨hop, -, hpc', hrsp⟩ | ⟨o', hop, hstatus, -, hpc', hrsp⟩
  · simp [hop, hrsp, hpc', hpc, Operation.response]
  · simp [hop, hrsp, hpc', hpc, hstatus]

theorem blockMove_accounted {s t : State} (ha : s.Accounted) (h : blockMove s = .next t) : t.Accounted := by
  rcases blockMove_takesUp h with ⟨-, -, rfl⟩ | ⟨u, hu, rfl⟩
  · exact ha
  · obtain ⟨o, ho, -⟩ := hu.busy
    exact advance_accounted ho (hu.accounted ha)

theorem State.noReset.of_suffix {s t : State} (hn : s.noReset) (h : t.schedule <:+ s.schedule) : t.noReset :=
  fun a ha => hn a (h.subset ha)

/-- Settles O51: a move of the block takes a request up and goes on with it, and both keep the account. -/
theorem stepKeepsRunFaithful : Obligations.StepKeepsRunFaithful := by
  intro s t hf h
  obtain ⟨hn, ha⟩ := s.faithful_iff.mp hf
  rcases step_noReset_cases hn h with ⟨ts, hts, hm⟩ | ⟨hsched, hparams, hpc, hop, hlog, hrsp, htx⟩
  · refine ⟨hn.of_suffix ?_, blockMove_accounted (s := s.setSchedule ts) ha hm⟩
    rw [blockMove_schedule hm]
    exact hts
  · refine ⟨hn.of_suffix hsched, ?_⟩
    simpa [State.Accounted, State.outstanding, hparams, hpc, hop, hlog, hrsp, htx] using ha

/-- Settles O52: at reset there is nothing to be wrong. -/
theorem resetMeetsTheInvariants : Obligations.ResetMeetsTheInvariants := by
  refine ⟨fun r hr => ?_, fun o ho => ?_, fun a ha => ?_, rfl, rfl, rfl⟩
  · cases hr
  · cases ho
  · cases ha

/-! ### Runs -/

/-- What every step keeps, every run keeps. -/
theorem run_keeps {P : State → Prop} (hstep : ∀ s t, P s → step s = .next t → P t) {n : Nat} {s t : State} (hs : P s)
    (h : core.run n s = .next t) : P t := by
  induction n generalizing s with
  | zero =>
    cases h
    exact hs
  | succ n ih =>
    obtain ⟨u, hu⟩ := machineNeverStops s
    rw [run_succ hu] at h
    exact ih (hstep s u hs hu) h

/-- The Commands a consumed request sends (R53). -/
def requestCommands (p : Params) (r : Request) : List Command :=
  match decode r.header r.operands with
  | .ok i => commandsOf p i
  | .error _ => []

theorem requestCommands_tx (p : Params) (r : Request) :
    (requestCommands p r).flatMap (emitCommand p.framing) = requestTx p r := by
  unfold requestCommands requestTx
  cases decode r.header r.operands with
  | ok i => exact commandsOf_tx p i
  | error e => rfl

/-- Under the checksummed framing what the rules give for requests is whole frames (R53, R123). -/
theorem requests_tx_frames {p : Params} (hp : p.framing = .checksummed) (rs : List Request) :
    rs.flatMap (requestTx p) = ((rs.flatMap (requestCommands p)).flatMap frame).map TxEvent.byte := by
  have hr : requestTx p = fun r => ((requestCommands p r).flatMap frame).map TxEvent.byte := by
    funext r
    rw [← requestCommands_tx, hp, List.map_flatMap]
    rfl
  rw [hr, List.flatMap_assoc, List.map_flatMap]

/-- Settles O53: the run is faithful, and an idle block has nothing outstanding. -/
theorem runsSendWholeFrames : Obligations.RunsSendWholeFrames := by
  intro n turns p t hp hn hrun hop
  have hkeeps : ∀ s u, s.Faithful ∧ s.params = p → step s = .next u → u.Faithful ∧ u.params = p :=
    fun s u ⟨hf, hsp⟩ h => ⟨stepKeepsRunFaithful s u hf h, (parametersNeverChange s u h).trans hsp⟩
  have hstart : State.Faithful { State.reset with schedule := turns, params := p } := ⟨hn, rfl, rfl, rfl⟩
  obtain ⟨⟨-, htx, -⟩, rfl⟩ := run_keeps hkeeps ⟨hstart, rfl⟩ hrun
  simp only [State.outstanding, hop, List.append_nil] at htx
  exact ⟨_, htx.trans (requests_tx_frames hp _)⟩

end Sys2Proof.Machine
end

section
/-! SUPPORT. The block's arithmetic: the division, the linear map, the result field, the checksum
(`41_value_scaler.md` R100 to R114, `42_frame_encoder.md` R121, R128). -/

namespace Sys2Proof.Machine

/-! ### The division -/

theorem tdiv_neg_left (a b : Int) : tdiv (-a) b = -tdiv a b := by
  rw [tdiv_eq_tdiv, tdiv_eq_tdiv, Int.neg_tdiv]

theorem tdiv_neg_right (a b : Int) : tdiv a (-b) = -tdiv a b := by
  rw [tdiv_eq_tdiv, tdiv_eq_tdiv, Int.tdiv_neg]

/-- On operands that are not negative the division rounds down. -/
theorem tdiv_eq_fdiv_of_nonneg {a b : Int} (ha : 0 ≤ a) (hb : 0 ≤ b) : tdiv a b = Int.fdiv a b := by
  rw [tdiv_eq_tdiv, Int.fdiv_eq_tdiv_of_nonneg ha hb]

/-- The error of the division is less than the divisor. -/
theorem natAbs_tdiv_mul_sub_lt (a : Int) {b : Int} (hb : b ≠ 0) : (tdiv a b * b - a).natAbs < b.natAbs := by
  have herror : Int.tdiv a b * b - a = -Int.tmod a b := by rw [Int.tdiv_mul_self]; ring
  rw [tdiv_eq_tdiv, herror, Int.natAbs_neg, Int.natAbs_tmod]
  exact Nat.mod_lt _ (Int.natAbs_pos.mpr hb)

/-- The division rounds toward zero. -/
theorem natAbs_tdiv_mul_le (a b : Int) : (tdiv a b * b).natAbs ≤ a.natAbs := by
  rw [tdiv_eq_tdiv, Int.natAbs_mul, Int.natAbs_tdiv]
  exact Nat.div_mul_le_self _ _

/-- Settles O16: by its two symmetries the division at any signs is that of the magnitudes. -/
theorem truncatingDivisionLaws : Obligations.TruncatingDivisionLaws := by
  intro a b hb
  refine ⟨fun ha hb => ?_, fun ha hb => ?_, fun ha hb => ?_, fun ha hb => ?_, ?_, natAbs_tdiv_mul_sub_lt a hb,
    natAbs_tdiv_mul_le a b, tdiv_neg_left a b, tdiv_neg_right a b⟩
  · exact tdiv_eq_fdiv_of_nonneg ha.le hb.le
  · rw [← tdiv_eq_fdiv_of_nonneg (by omega) hb.le, tdiv_neg_left, neg_neg]
  · rw [← tdiv_eq_fdiv_of_nonneg ha.le (by omega), tdiv_neg_right, neg_neg]
  · rw [← tdiv_eq_fdiv_of_nonneg (by omega) (by omega), tdiv_neg_left, tdiv_neg_right, neg_neg]
  · rintro rfl
    rw [tdiv_eq_tdiv, Int.zero_tdiv]

/-! ### The linear map -/

/-- Scaling by a quotient whose two sides have the same sign is increasing: for a negative divisor, by the division's
symmetries. -/
theorem mul_tdiv_le_mul_tdiv {x y n d : Int} (h : 0 < n * d) (hxy : x ≤ y) :
    Int.tdiv (x * n) d ≤ Int.tdiv (y * n) d := by
  rcases pos_and_pos_or_neg_and_neg_of_mul_pos h with ⟨hn, hd⟩ | ⟨hn, hd⟩
  · exact Int.tdiv_le_tdiv hd (Int.mul_le_mul_of_nonneg_right hxy hn.le)
  · rw [← Int.neg_tdiv_neg (x * n), ← Int.neg_tdiv_neg (y * n)]
    exact Int.tdiv_le_tdiv (by omega) (neg_le_neg (Int.mul_le_mul_of_nonpos_right hxy hn.le))

/-- Settles O17: the map is the source offset scaled by the quotient of the two spans. -/
theorem linearScaleEndPointsAndMonotone : Obligations.LinearScaleEndPointsAndMonotone := by
  intro fl fh tl th hne
  have hspan : fh - fl ≠ 0 := sub_ne_zero.mpr hne
  simp only [linearScale_eq]
  refine ⟨by simp, by simp [Int.mul_tdiv_cancel_left _ hspan], fun u v huv => ⟨fun h => ?_, fun h => ?_, ?_⟩⟩
  · exact Int.add_le_add_left (mul_tdiv_le_mul_tdiv h (by omega)) tl
  · have hle := mul_tdiv_le_mul_tdiv (x := u - fl) (y := v - fl) (n := -(th - tl)) (d := fh - fl)
      (by linarith) (by omega)
    simp only [mul_neg, Int.neg_tdiv] at hle
    omega
  · rintro rfl
    simp

/-! ### The result field -/

/-- The result field reads back what fits it (R114). -/
theorem resultWord_toInt {v : Int} (h : v.natAbs < 2 ^ 65) : (resultWord v).toInt = v :=
  BitVec.toInt_ofInt_eq_self (by decide) (by omega) (by omega)

theorem natAbs_toInt_le (w : Word) : w.toInt.natAbs ≤ 2 ^ 31 := by
  have hlo := BitVec.le_toInt w
  have hhi := BitVec.toInt_lt (x := w)
  omega

theorem natAbs_toInt_sub_lt (v w : Word) : (v.toInt - w.toInt).natAbs < 2 ^ 32 := by
  have hv := BitVec.le_toInt v
  have hv' := BitVec.toInt_lt (x := v)
  have hw := BitVec.le_toInt w
  have hw' := BitVec.toInt_lt (x := w)
  omega

/-- The map of words is at most its offset and its product away from zero. -/
theorem natAbs_linearScale_lt (v fl fh tl th : Word) :
    (linearScale v.toInt fl.toInt fh.toInt tl.toInt th.toInt).natAbs < 2 ^ 65 := by
  rw [linearScale_eq]
  have hsum := Int.natAbs_add_le tl.toInt
    (Int.tdiv ((v.toInt - fl.toInt) * (th.toInt - tl.toInt)) (fh.toInt - fl.toInt))
  have hquotient := Int.natAbs_tdiv_le_natAbs ((v.toInt - fl.toInt) * (th.toInt - tl.toInt)) (fh.toInt - fl.toInt)
  have hproduct := Nat.mul_lt_mul'' (natAbs_toInt_sub_lt v fl) (natAbs_toInt_sub_lt th tl)
  have hoffset := natAbs_toInt_le tl
  rw [Int.natAbs_mul] at hquotient
  omega

theorem natAbs_accelerationScale_lt (r : Word) : (accelerationScale r.toInt).natAbs < 2 ^ 39 := by
  rw [accelerationScale_eq]
  have hquotient := Int.natAbs_tdiv_le_natAbs ((r.toInt + 1024) * 127) 2048
  have hreading := natAbs_toInt_le r
  omega

theorem clamp_mem (v : Int) : 0 ≤ clamp v ∧ clamp v ≤ 127 := by
  rw [clamp_eq]
  omega

/-- Settles O18: every result is small enough for the field to read back. -/
theorem resultFieldHoldsEveryResult : Obligations.ResultFieldHoldsEveryResult := by
  refine ⟨fun v fl fh tl th _ => ?_, fun r => ?_, fun v => ?_⟩
  · have hbound := natAbs_linearScale_lt v fl fh tl th
    exact ⟨hbound, resultWord_toInt hbound⟩
  · have hbound := natAbs_accelerationScale_lt r
    exact ⟨hbound, resultWord_toInt (by omega)⟩
  · have hmem := clamp_mem v.toInt
    rw [resultWord_toInt (by omega)]
    exact ⟨hmem.1, hmem.2, rfl⟩

/-- Settles O33: the product lies between zero and the divisor's 127-fold, so its quotient between zero and 127. -/
theorem nominalReadingGivesPayload : Obligations.NominalReadingGivesPayload := by
  intro r hlo hhi
  rw [accelerationScale_eq, Int.tdiv_eq_ediv_of_nonneg (by omega)]
  omega

/-! ### The checksum -/

/-- Settles O22: the checksum is the library's residue. -/
theorem checksumResidue : Obligations.ChecksumResidue := by
  refine ⟨fun vs => ?_, rfl⟩
  rw [checksum_eq, ← List.sum_eq_foldl]
  omega

/-- Accumulating in a register is the sum in that register. -/
theorem foldl_add_ofInt (width : Nat) (vs : Command) (acc : BitVec width) :
    vs.foldl (fun acc v => acc + BitVec.ofInt width v) acc = acc + BitVec.ofInt width vs.sum := by
  induction vs generalizing acc with
  | nil => simp
  | cons v vs ih => rw [List.foldl_cons, ih, List.sum_cons, BitVec.ofInt_add, BitVec.add_assoc]

/-- Settles O23: 128 divides the register's modulus. -/
theorem checksumNeedsSevenBits : Obligations.ChecksumNeedsSevenBits := by
  intro width hwidth vs
  have hdvd : (128 : Int) ∣ 2 ^ width := pow_dvd_pow 2 hwidth
  have hnonneg : 0 ≤ vs.sum % 2 ^ width := Int.emod_nonneg _ (by positivity)
  rw [foldl_add_ofInt, zero_add, BitVec.toNat_setWidth, BitVec.toNat_ofInt, checksum_eq]
  push_cast
  rw [Int.toNat_of_nonneg hnonneg]
  exact Int.emod_emod_of_dvd _ hdvd

end Sys2Proof.Machine
end

section
/-! SUPPORT. Frames: what stands in a field, how long a frame is, and that frames can be cut in one way only
(`30_encoding.md` R60 to R69, `42_frame_encoder.md` R129). -/

namespace Sys2Proof.Machine

/-! ### The bytes of a rendered number -/

theorem decNat_bytes_digit (n : Nat) : ∀ b ∈ decNat n, 0x30 ≤ b.toNat ∧ b.toNat ≤ 0x39 := by
  rcases Nat.eq_zero_or_pos n with rfl | hn
  · simp [decNat_zero]
  · exact decNat_bytes hn

/-- A rendered number is made of digits and the minus sign (R65). -/
theorem dec_bytes {v : Int} {b : Byte} (hb : b ∈ dec v) : b = 0x2D ∨ (0x30 ≤ b.toNat ∧ b.toNat ≤ 0x39) := by
  rcases lt_or_ge v 0 with hv | hv
  · rw [dec_of_neg hv, List.mem_cons] at hb
    exact hb.imp_right (decNat_bytes_digit _ b)
  · rw [dec_of_nonneg hv] at hb
    exact .inr (decNat_bytes_digit _ b hb)

/-- A byte that is neither a digit nor the minus sign stands in no rendered number (R69). -/
theorem notMem_dec {b : Byte} (hb : b ≠ 0x2D ∧ (b.toNat < 0x30 ∨ 0x39 < b.toNat)) (v : Int) : b ∉ dec v := by
  intro hmem
  rcases dec_bytes hmem with h | h
  · exact hb.1 h
  · omega

/-- Settles O21: none of the five bytes is a digit or the minus sign. -/
theorem fieldsNeedNoEscaping : Obligations.FieldsNeedNoEscaping := by
  intro v b hb
  refine ⟨dec_bytes hb, ?_, ?_, ?_, ?_, ?_⟩ <;> rintro rfl <;> exact notMem_dec (by decide) v hb

/-! ### A number is told by its rendering -/

/-- Read in base ten the rendering of a natural number gives the number; zero is its own digit. -/
theorem decNat_injective : Function.Injective decNat := by
  have hvalue : ∀ n, (decNat n).foldl (fun (acc : Int) b => 10 * acc + ((b.toNat : Int) - 0x30)) 0 = n := by
    intro n
    rcases Nat.eq_zero_or_pos n with rfl | hn
    · rfl
    · exact decNat_value hn
  intro m n h
  have := hvalue m
  rw [h, hvalue n] at this
  omega

/-- A minus sign tells the negative numbers from the others (R65). -/
theorem dec_injective : Function.Injective dec := by
  have hminus : ∀ n, (0x2D : Byte) ∉ decNat n := fun n h => absurd (decNat_bytes_digit n _ h) (by decide)
  have hmixed : ∀ v w : Int, v < 0 → 0 ≤ w → dec v ≠ dec w := by
    intro v w hv hw h
    rw [dec_of_neg hv, dec_of_nonneg hw] at h
    exact hminus w.natAbs (h ▸ List.mem_cons_self)
  intro v w h
  rcases lt_or_ge v 0 with hv | hv <;> rcases lt_or_ge w 0 with hw | hw
  · rw [dec_of_neg hv, dec_of_neg hw] at h
    have := decNat_injective (List.cons_injective h)
    omega
  · exact absurd h (hmixed v w hv hw)
  · exact absurd h.symm (hmixed w v hw hv)
  · rw [dec_of_nonneg hv, dec_of_nonneg hw] at h
    have := decNat_injective h
    omega

/-! ### Self-delimiting pieces -/

/-- Every piece `f a` ends with `z`, which stands nowhere else in it. -/
def TerminatedBy {α β : Type} (z : β) (f : α → List β) : Prop := ∀ a, ∃ body, f a = body ++ [z] ∧ z ∉ body

/-- What stands before the first terminator is told by the whole. -/
theorem append_terminator_inj {β : Type} {z : β} {xs ys us vs : List β} (hx : z ∉ xs) (hy : z ∉ ys)
    (h : xs ++ z :: us = ys ++ z :: vs) : xs = ys ∧ us = vs := by
  rcases List.append_eq_append_iff.mp h with ⟨c, rfl, hc⟩ | ⟨c, rfl, hc⟩ <;> cases c <;> simp_all

/-- A concatenation of terminated pieces can be cut at the first terminator, so it tells the sequence of pieces
(R68). -/
theorem TerminatedBy.flatMap_injective {α β : Type} {z : β} {f : α → List β} (hf : TerminatedBy z f)
    (hinj : Function.Injective f) : ∀ as bs : List α, as.flatMap f = bs.flatMap f → as = bs
  | [], [], _ => rfl
  | [], b :: bs, h => by
    obtain ⟨body, hb, -⟩ := hf b
    simp [hb] at h
  | a :: as, [], h => by
    obtain ⟨body, ha, -⟩ := hf a
    simp [ha] at h
  | a :: as, b :: bs, h => by
    obtain ⟨body, ha, hz⟩ := hf a
    obtain ⟨body', hb, hz'⟩ := hf b
    simp only [List.flatMap_cons, ha, hb, List.append_assoc, List.singleton_append] at h
    obtain ⟨rfl, hrest⟩ := append_terminator_inj hz hz' h
    rw [hinj (ha.trans hb.symm), hf.flatMap_injective hinj as bs hrest]

theorem field_terminated : TerminatedBy 0x3E field := by
  intro v
  refine ⟨[0x3C] ++ dec v, rfl, ?_⟩
  simpa using notMem_dec (by decide) v

theorem field_injective : Function.Injective field := by
  intro v w h
  simp only [field, List.append_left_inj, List.append_right_inj] at h
  exact dec_injective h

/-- The numbers a frame's fields hold: the count, the values, the checksum (R60). -/
def frameNumbers (vs : Command) : List Int := vs.length :: (vs ++ [checksum vs])

/-- A frame is a header, the fields of its numbers, and a terminator (R60, R123). -/
theorem frame_eq_fields (vs : Command) : frame vs = ([0x2A, 0x2B] ++ (frameNumbers vs).flatMap field) ++ [0x5E] := by
  simp [frame, frameNumbers, Config.hdr0, Config.hdr1, Config.frameEnd]

/-- The terminator stands in no field (R69). -/
theorem frameEnd_notMem_fields (ns : List Int) : (0x5E : Byte) ∉ ns.flatMap field := by
  simp only [List.mem_flatMap, not_exists, not_and]
  intro n _
  have := notMem_dec (b := 0x5E) (by decide) n
  simpa [field, Config.fieldOpen, Config.fieldClose] using this

theorem frame_terminated : TerminatedBy 0x5E frame := by
  intro vs
  refine ⟨[0x2A, 0x2B] ++ (frameNumbers vs).flatMap field, frame_eq_fields vs, ?_⟩
  simpa using frameEnd_notMem_fields (frameNumbers vs)

/-- A frame's fields tell its Command. -/
theorem frame_injective : Function.Injective frame := by
  intro vs ws h
  rw [frame_eq_fields, frame_eq_fields, List.append_left_inj, List.append_right_inj] at h
  have hnumbers := field_terminated.flatMap_injective field_injective _ _ h
  exact (List.append_inj' (List.cons.inj hnumbers).2 rfl).1

/-- Settles O27: frames are terminated and tell their Commands. -/
theorem framesAreUniquelyReadable : Obligations.FramesAreUniquelyReadable :=
  frame_terminated.flatMap_injective frame_injective

/-! ### The length of a frame -/

theorem field_length (v : Int) : (field v).length = 2 + (dec v).length := by
  simp [field]
  omega

theorem frame_length (vs : Command) :
    (frame vs).length = 2 + (2 + (dec vs.length).length) + (vs.map fun v => 2 + (dec v).length).sum
      + (2 + (dec (checksum vs)).length) + 1 := by
  simp only [frame, List.length_append, List.length_cons, List.length_nil, field_length, List.length_flatMap]

theorem dec_length_pos (v : Int) : 1 ≤ (dec v).length := by
  have hdigits : 1 ≤ (decNat v.natAbs).length := by
    unfold decNat decimalDigits
    split <;> simp
  rcases lt_or_ge v 0 with hv | hv
  · simp [dec_of_neg hv]
  · rwa [dec_of_nonneg hv]

/-- The count of a request and the checksum have at most three digits. -/
theorem dec_length_le {v : Int} (h0 : 0 ≤ v) (h : v ≤ 255) : (dec v).length ≤ 3 := by
  rw [dec_of_nonneg h0]
  exact (decNat_length (by omega) (by omega)).2

/-- A frame's length is that of its three fixed bytes and of its fields; each field is at least three bytes long. -/
theorem frame_length_ge (vs : Command) : 9 + 3 * vs.length ≤ (frame vs).length := by
  have hvalues : 3 * vs.length ≤ (vs.map fun v => 2 + (dec v).length).sum := by
    have hmap := List.card_nsmul_le_sum (vs.map fun v => 2 + (dec v).length) 3 (by
      simp only [List.mem_map]
      rintro _ ⟨v, -, rfl⟩
      have := dec_length_pos v
      omega)
    simpa [Nat.mul_comm] using hmap
  have hcount := dec_length_pos vs.length
  have hsum := dec_length_pos (checksum vs)
  rw [frame_length]
  omega

/-- The longest frame of a given number of words (R68). -/
theorem frame_length_le {ws : List Word} (h : ws.length ≤ 255) :
    (frame (ws.map BitVec.toInt)).length ≤ 13 + 13 * ws.length := by
  obtain ⟨-, -, -, hword⟩ := decimalRendering
  have hvalues : ((ws.map BitVec.toInt).map fun v => 2 + (dec v).length).sum ≤ 13 * ws.length := by
    have hmap := List.sum_le_card_nsmul ((ws.map BitVec.toInt).map fun v => 2 + (dec v).length) 13 (by
      simp only [List.mem_map]
      rintro _ ⟨_, ⟨w, -, rfl⟩, rfl⟩
      have := (hword w).2
      omega)
    simpa [Nat.mul_comm] using hmap
  have hcount := dec_length_le (v := ((ws.map BitVec.toInt).length : Nat)) (by omega) (by simpa using h)
  have hrange : 0 ≤ checksum (ws.map BitVec.toInt) ∧ checksum (ws.map BitVec.toInt) ≤ 127 := by
    rw [checksum_eq]
    omega
  have hsum := dec_length_le hrange.1 (by omega)
  rw [frame_length]
  omega

/-- Settles O26: the bounds are those of the fields' lengths, and the shortest frame has no value. -/
theorem frameLength : Obligations.FrameLength := by
  refine ⟨fun vs => ⟨frame_length vs, ?_, ?_, frame_terminated vs⟩, fun ws h => ?_⟩
  · have hge := frame_length_ge vs
    omega
  · constructor
    · intro h
      have hge := frame_length_ge vs
      exact List.length_eq_zero_iff.mp (by omega)
    · rintro rfl
      rfl
  · have hle := frame_length_le h
    omega

end Sys2Proof.Machine
end

section
/-! SUPPORT. The meaning of an instruction in one line: a fault is raised, or the Commands are sent, or the result is
answered after at most one ACC read (`60_exceptions.md` R184, `42_frame_encoder.md` R126, `41_value_scaler.md`
R103 to R105, `43_message_ops.md` R156). -/

namespace Sys2Proof.Machine

/-- The state an operation is launched from: after the ACC read of an ACCELERATION whose axis is legal (R46, R89). -/
def sensed (i : Instr) (s : State) : State :=
  match i with
  | .acceleration w => ((axisOf w).map (readAcc s)).getD s
  | _ => s

theorem sensed_of_commands {i : Instr} {s : State} (h : commandsIfOk i ≠ []) : sensed i s = s := by
  cases i with
  | acceleration w => exact absurd rfl h
  | _ => rfl

/-- The result an operation answers, in its field; none where it has none (R23). -/
def resultField (reading : Axis → Word) (i : Instr) : Option ResultWord := (resultIfOk reading i).map resultWord

/-- An ACCELERATION whose operand names an axis is no fault (R89). -/
theorem expectedStatus_acceleration (p : Params) {w : Word} {a : Axis} (h : axisOf w = some a) :
    expectedStatus p (.acceleration w) = .ok :=
  (expectedStatus_eq_ok_iff _ _).mpr ⟨(axisOf_isSome_iff p w).mp (by simp [h]), rfl⟩

/-- A fault reads nothing (R184). -/
theorem sensed_of_fault {i : Instr} {s : State} (h : expectedStatus s.params i ≠ .ok) : sensed i s = s := by
  cases i with
  | acceleration w =>
    cases hax : axisOf w with
    | none => simp [sensed, hax]
    | some a => exact absurd (expectedStatus_acceleration _ hax) h
  | _ => rfl

section
variable {i : Instr} {s : State}

/-- An operation whose status is a fault raises it, without a read (R184). -/
theorem exec_raises (hst : expectedStatus s.params i ≠ .ok) :
    exec i s = .next (s.completed [] ⟨(expectedStatus s.params i).code, false, 0⟩) := by
  obtain ⟨res, s', hreads, hexec, -⟩ := exec_launches i s
  have hs' : s' = s := by
    rcases hreads with hs' | ⟨w, a, rfl, hax, -⟩
    · exact hs'
    · exact absurd (expectedStatus_acceleration _ hax) hst
  rw [hexec, hs', commandsOf, if_neg hst, launch_no_commands, Response.of_fault hst, Response.of_none]

/-- An operation whose status is OK and which has Commands sends them (R126). -/
theorem exec_sends (hst : expectedStatus s.params i = .ok) (hc : commandsIfOk i ≠ []) :
    exec i s = send i.operands (commandsIfOk i) s := by
  obtain ⟨res, s', hreads, hexec, hres⟩ := exec_launches i s
  rw [commandsOf, if_pos hst] at hexec hres
  have hs' : s' = s := by
    rcases hreads with hs' | ⟨w, a, rfl, -, -⟩
    · exact hs'
    · exact absurd rfl hc
  rw [hexec, hs', hres hc, hst]
  rfl

/-- An operation whose status is OK and which has a result answers it, ACCELERATION after its read (R103 to R105,
R156). -/
theorem exec_answers_sensed {v : Int} (hst : expectedStatus s.params i = .ok) (hv : resultIfOk s.reading i = some v) :
    exec i s = answer i.operands v (sensed i s) := by
  obtain ⟨s', hreads, hexec⟩ := exec_answers hst hv
  cases i with
  | acceleration w =>
    obtain ⟨a, hax, rfl⟩ := Option.map_eq_some_iff.mp hv
    simp [exec, execAcceleration, sensed, hax, Instr.operands]
  | _ =>
    rcases hreads with rfl | ⟨w, a, hi, -⟩
    · exact hexec
    · cases hi

/-- The three together: every instruction is one launch. -/
theorem exec_eq_launch (i : Instr) (s : State) :
    exec i s = .next (launch i.operands (commandsOf s.params i) (expectedStatus s.params i) (resultField s.reading i)
      (sensed i s)) := by
  by_cases hst : expectedStatus s.params i = .ok
  · cases hv : resultIfOk s.reading i with
    | none =>
      have hc : commandsIfOk i ≠ [] := by simpa [commandsOf, hst] using commandsOf_ne_nil_of_no_result hst hv
      rw [exec_sends hst hc, sensed_of_commands hc, commandsOf, if_pos hst, hst, resultField, hv]
      rfl
    | some v =>
      rw [exec_answers_sensed hst hv, commandsOf, if_pos hst, commandsIfOk_of_result hv, hst, resultField, hv]
      rfl
  · rw [exec_raises hst, sensed_of_fault hst, commandsOf, if_neg hst, launch_no_commands, Response.of_fault hst,
      Response.of_none]

/-- An operation that sends, to a transport that takes its events. -/
theorem exec_sends_completes {cs : List Command} (hst : expectedStatus s.params i = .ok) (hcs : commandsIfOk i = cs)
    (hne : cs ≠ []) (ht : s.takes (cs.flatMap (emitCommand s.params.framing)).length) :
    exec i s = .next (s.completed (cs.flatMap (emitCommand s.params.framing)) ⟨0x00, false, 0⟩) := by
  subst hcs
  rw [exec_sends hst hne, send_completes _ _ _ ht]
  rfl

/-- An operation without Commands completes whatever the transport does. -/
theorem exec_without_commands (hc : commandsIfOk i = []) :
    exec i s = .next ((sensed i s).completed [] (responseOf s.params s.reading i)) := by
  have hnil : commandsOf s.params i = [] := by simp [commandsOf, hc]
  rw [exec_eq_launch, hnil, launch_no_commands]
  rfl

end

/-! ### The obligations on results -/

/-- Settles O13: CLAMP answers `clamp`, which is a maximum of a minimum. -/
theorem clampResult : Obligations.ClampResult := by
  refine ⟨fun w s _ => answer_spec [w] (clamp w.toInt) s, fun v => ?_, fun u v huv => ?_⟩
  · simp only [clamp_eq]
    omega
  · simp only [clamp_eq]
    omega

/-- Settles O14: distinct ends make the status OK, equal ends `InvalidRange`. -/
theorem lscaleResult : Obligations.LscaleResult := by
  intro v fl fh tl th s _
  refine ⟨fun hne => ?_, fun heq => ?_⟩
  · have hst : expectedStatus s.params (.lscale v fl fh tl th) = .ok :=
      (expectedStatus_eq_ok_iff _ _).mpr ⟨rfl, decide_eq_false hne⟩
    rw [exec_answers_sensed hst rfl, answer_spec]
    simp only [slotValue_eq, linearScale_eq]
    rfl
  · have hst : expectedStatus s.params (.lscale v fl fh tl th) = .invalidRange :=
      (expectedStatus_cases _ _).2.1 rfl (decide_eq_true heq)
    rw [exec_raises (by rw [hst]; decide), hst]
    rfl

/-- Settles O15: ASCALE answers `accelerationScale`. -/
theorem ascaleResult : Obligations.AscaleResult := by
  intro w s _
  rw [← accelerationScale_eq]
  exact answer_spec [w] (accelerationScale w.toInt) s

/-- Settles O19: none of the three has Commands or reads the sensor. -/
theorem scalerFrame : Obligations.ScalerFrame := by
  intro i s t hi _ hexec
  have hframe : commandsIfOk i = [] ∧ sensed i s = s := by
    rcases hi with ⟨v, rfl⟩ | ⟨v, fl, fh, tl, th, rfl⟩ | ⟨r, rfl⟩ <;> exact ⟨rfl, rfl⟩
  rw [exec_without_commands hframe.1, hframe.2, Host.Outcome.next.injEq] at hexec
  subst hexec
  simp

/-- Settles O12: the framing tells whether BANG is legal. -/
theorem bangBySetting : Obligations.BangBySetting := by
  intro c s _
  refine ⟨fun hf => ?_, fun hf ht => ?_⟩
  · have hst : expectedStatus s.params (.bang c) = .illegalRequest :=
      (expectedStatus_cases _ _).1 (by simp [Instr.legal, hf])
    rw [exec_raises (by rw [hst]; decide), hst]
    rfl
  · have hst : expectedStatus s.params (.bang c) = .ok :=
      (expectedStatus_eq_ok_iff _ _).mpr ⟨decide_eq_true hf, rfl⟩
    have hcompletes := exec_sends_completes hst rfl (by simp [commandsIfOk])
    simp only [commandsIfOk, List.flatMap_cons, List.flatMap_nil, List.append_nil, hf] at hcompletes
    exact hcompletes ht

/-- Settles O28: its one Command, sent whole. -/
theorem midiMessageSendsClamped : Obligations.MidiMessageSendsClamped := by
  rintro c r s cmd _ rfl ht
  have hcs : commandsIfOk (.midiMessage c r) = [[c.toInt, clamp r.toInt]] := by rw [clamp_eq]; rfl
  have hcompletes := exec_sends_completes (s := s) rfl hcs (by simp)
  rw [List.flatMap_singleton] at hcompletes
  exact hcompletes ht

/-- Settles O29: distinct ends make the status OK, equal ends `InvalidRange`. -/
theorem midiScaledSendsScaledClamped : Obligations.MidiScaledSendsScaledClamped := by
  rintro c r fl fh tl th s scaled cmd _ rfl rfl
  refine ⟨fun hne ht => ?_, fun heq => ?_⟩
  · have hst : expectedStatus s.params (.midiScaled c r fl fh tl th) = .ok :=
      (expectedStatus_eq_ok_iff _ _).mpr ⟨rfl, decide_eq_false hne⟩
    have hcs : commandsIfOk (.midiScaled c r fl fh tl th) = [[c.toInt, clamp (tl.toInt +
        Int.tdiv ((r.toInt - fl.toInt) * (th.toInt - tl.toInt)) (fh.toInt - fl.toInt))]] := by rw [clamp_eq]; rfl
    have hcompletes := exec_sends_completes hst hcs (by simp)
    rw [List.flatMap_singleton] at hcompletes
    exact hcompletes ht
  · have hst : expectedStatus s.params (.midiScaled c r fl fh tl th) = .invalidRange :=
      (expectedStatus_cases _ _).2.1 rfl (decide_eq_true heq)
    rw [exec_raises (by rw [hst]; decide), hst]
    rfl

/-- Settles O30: each sends its one Command whole. -/
theorem switchOnAndOff : Obligations.SwitchOnAndOff := by
  intro c s _
  have hon := exec_sends_completes (s := s) (i := .switchOn c) rfl rfl (by simp [commandsIfOk])
  have hoff := exec_sends_completes (s := s) (i := .switchOff c) rfl rfl (by simp [commandsIfOk])
  simp only [commandsIfOk, List.flatMap_singleton] at hon hoff
  exact ⟨hon, hoff⟩

/-- Settles O31: its two Commands, sent whole. -/
theorem toggleSendsOnThenOff : Obligations.ToggleSendsOnThenOff := by
  intro c s _ ht
  have hcompletes := exec_sends_completes (s := s) (i := .toggle c) rfl rfl (by simp [commandsIfOk])
  simp only [commandsIfOk, List.flatMap_cons, List.flatMap_nil, List.append_nil] at hcompletes
  exact hcompletes ht

/-- A legal axis: one read, and its answer scaled (R156). -/
theorem exec_acceleration {w : Word} {a : Axis} (h : axisOf w = some a) (s : State) :
    exec (.acceleration w) s = .next ((readAcc s a).completed []
      ⟨0x00, true, BitVec.ofInt 66 (Int.tdiv (((s.reading a).toInt + 1024) * 127) 2048)⟩) := by
  rw [← accelerationScale_eq]
  have hexec : exec (.acceleration w) s = answer [w] (accelerationScale (s.reading a).toInt) (readAcc s a) := by
    simp [exec, execAcceleration, h]
  rw [hexec, answer_spec]
  rfl

/-- Settles O32: a legal axis is answered after the read, any other raises. -/
theorem accelerationReadsOneAxis : Obligations.AccelerationReadsOneAxis := by
  intro w s _
  refine ⟨fun a ha => ?_, fun h0 h1 h2 => ?_⟩
  · have hax : axisOf w = some a := by
      simp only [List.mem_cons, Prod.mk.injEq, List.not_mem_nil, or_false] at ha
      rcases ha with ⟨rfl, rfl⟩ | ⟨rfl, rfl⟩ | ⟨rfl, rfl⟩ <;> decide
    exact ⟨s.reading a, fun u us hin => by simp [State.reading, hin], exec_acceleration hax s⟩
  · have hst : expectedStatus s.params (.acceleration w) = .illegalRequest :=
      (expectedStatus_cases _ _).1 (by simpa [Instr.legal] using ⟨h0, h1, h2⟩)
    rw [exec_raises (by rw [hst]; decide), hst]
    rfl

/-- Settles O37: ACCELERATION has no Commands, so it completes after its read or without one. -/
theorem accelerationFrame : Obligations.AccelerationFrame := by
  intro w s t hop hexec
  rw [exec_without_commands rfl, Host.Outcome.next.injEq] at hexec
  subst hexec
  cases hax : axisOf w with
  | none => simp [sensed, hax]
  | some a => simpa [sensed, hax] using axis_of_axisOf hax

end Sys2Proof.Machine
end

section
/-! SUPPORT. The message operations beside their expansions (`30_encoding.md` R88), and what a sending operation leaves,
completing or stalled (`20_memory.md` R43, R49, R50). -/

namespace Sys2Proof.Machine

/-! ### Expansions -/

/-- An operand word holds every number from 0 to 127. -/
theorem toInt_ofInt_clamp (v : Int) : (BitVec.ofInt 32 (clamp v)).toInt = clamp v := by
  have hmem := clamp_mem v
  exact BitVec.toInt_ofInt_eq_self (by decide) (by omega) (by omega)

theorem takes_of_room_none {s : State} (h : s.room = none) (n : Nat) : s.takes n := by simp [State.takes, h]

section
variable {s : State} (hroom : s.room = none)
include hroom

/-- With a transport that takes everything, an operation that sends the one Command made of two words leaves what their
MIDI_COMMAND leaves (R88). -/
theorem exec_eq_midiCommand (hk : 2 ≤ s.params.kmax.val) {i : Instr} (c v : Word)
    (hst : expectedStatus s.params i = .ok) (hcs : commandsIfOk i = [[c.toInt, v.toInt]]) :
    ∃ t u, exec i s = .next t ∧ exec (.midiCommand [c, v]) s = .next u ∧ t = u := by
  have hsent := exec_sends_completes hst hcs (by simp) (takes_of_room_none hroom _)
  rw [List.flatMap_singleton] at hsent
  exact ⟨_, _, hsent, exec_midiCommand_completes [c, v] s hk (takes_of_room_none hroom _), rfl⟩

/-- An operation that sends `[channel, 1]` and then `[channel, 0]` puts on TX what their two MIDI_COMMANDs put there
(R88). -/
theorem exec_tx_eq_midiCommands (hk : 2 ≤ s.params.kmax.val) {i : Instr} (c : Word)
    (hst : expectedStatus s.params i = .ok) (hcs : commandsIfOk i = [[c.toInt, 1], [c.toInt, 0]]) :
    ∃ t u v, exec i s = .next t ∧ exec (.midiCommand [c, 1]) s = .next u ∧ exec (.midiCommand [c, 0]) u = .next v ∧
      t.tx = v.tx := by
  have hsent := exec_sends_completes hst hcs (by simp) (takes_of_room_none hroom _)
  refine ⟨_, _, _, hsent, exec_midiCommand_completes [c, 1] s hk (takes_of_room_none hroom _),
    exec_midiCommand_completes [c, 0] _ hk (takes_of_room_none (by simp [hroom]) _), ?_⟩
  simp only [State.completed_tx, State.completed_params, List.flatMap_cons, List.flatMap_nil, List.append_nil,
    List.append_assoc]
  rfl

end

/-- Settles O34: each operation sends the Commands of its expansion, and ASCALE is a case of the linear map. -/
theorem pseudoOperationExpansions : Obligations.PseudoOperationExpansions := by
  intro s c r fl fh tl th _ hroom hk
  refine ⟨?_, fun hne => ?_, ?_, ?_, ?_, fun hf => ?_, ?_⟩
  · refine exec_eq_midiCommand hroom hk c _ rfl ?_
    rw [toInt_ofInt_clamp, clamp_eq]
    rfl
  · refine exec_eq_midiCommand hroom hk c _ ((expectedStatus_eq_ok_iff _ _).mpr ⟨rfl, decide_eq_false hne⟩) ?_
    rw [toInt_ofInt_clamp, clamp_eq, linearScale_eq]
    rfl
  · exact exec_eq_midiCommand hroom hk c 1 rfl rfl
  · exact exec_eq_midiCommand hroom hk c 0 rfl rfl
  · exact exec_tx_eq_midiCommands hroom hk c rfl rfl
  · exact exec_tx_eq_midiCommands hroom hk c ((expectedStatus_eq_ok_iff _ _).mpr ⟨decide_eq_true hf, rfl⟩) rfl
  · exact ⟨_, _, answer_spec [r] _ s, answer_spec [r, BitVec.ofInt 32 (-1024), 1024, 0, 127] _ s, rfl⟩

/-! ### Completing or stalled -/

/-- Settles O36: a sending operation reads nothing, and its launch is one advance. -/
theorem sendingFrame : Obligations.SendingFrame := by
  intro i s t hi _ hexec
  have hs : sensed i s = s := by
    rcases hi with ⟨vs, rfl⟩ | ⟨c, r, rfl⟩ | ⟨c, r, fl, fh, tl, th, rfl⟩ | ⟨c, rfl⟩ | ⟨c, rfl⟩ | ⟨c, rfl⟩ |
      ⟨c, rfl⟩ <;> rfl
  rw [exec_eq_launch, hs, Host.Outcome.next.injEq] at hexec
  subst hexec
  obtain ⟨hparams, hreq, hlog, hacc, haccIn, hsched⟩ := launch_unchanged i.operands (commandsOf s.params i)
    (expectedStatus s.params i) (resultField s.reading i) s
  refine ⟨hparams, hreq, hlog, hacc, haccIn, hsched, ?_⟩
  obtain ⟨sent, hadv⟩ := advance_advances (s := s.setOp (some (Operation.start s.params.framing i.operands
    (commandsOf s.params i) (expectedStatus s.params i) (resultField s.reading i)))) rfl
  refine ⟨sent, _, ?_, hadv.tx, rfl, hadv.room, ?_⟩
  · rw [← commandsOf_tx]
    exact hadv.remaining.trans (Operation.start_remaining _ _ _ _ _)
  · rcases hadv.outcome with ⟨hop, hout, hpc, hrsp⟩ | ⟨o', hop, -, hout, hpc, hrsp⟩
    · exact .inl ⟨hop, hout, hpc, _, hrsp⟩
    · exact .inr ⟨fun hnone => Option.some_ne_none _ (hop.symm.trans hnone), hout, hpc, hrsp⟩

/-- Settles O38: what has events to hand over is sent, and its launch stalls. -/
theorem stalledSendHoldsItsPlace : Obligations.StalledSendHoldsItsPlace := by
  intro i s k _ hr hk
  have hst : expectedStatus s.params i = .ok := by
    by_contra hne
    simp [expectedTx, hne] at hk
  have htx : (commandsIfOk i).flatMap (emitCommand s.params.framing) = expectedTx s.params i := by
    rw [expectedTx, if_pos hst]
  have hc : commandsIfOk i ≠ [] := by
    intro hnil
    simp [← htx, hnil] at hk
  rw [exec_sends hst hc, ← htx]
  obtain ⟨o, hlaunch, hrest⟩ := launch_stalls i.operands (commandsIfOk i) .ok none s k hr (htx ▸ hk)
  exact ⟨o, congrArg _ hlaunch, hrest⟩

/-- An operation that a transport has stalled and that is then let go on ends as it would have ended without the stall
(R44, R50). -/
theorem launch_resumes (slots : List Word) (cs : List Command) (st : Status) (res : Option ResultWord) {s : State}
    (hroom : s.room = none) (k : Nat) :
    ((launch slots cs st res (s.setRoom (some k))).op = none →
      (launch slots cs st res (s.setRoom (some k))).setRoom none = launch slots cs st res s) ∧
    ((launch slots cs st res (s.setRoom (some k))).op ≠ none →
      advance ((launch slots cs st res (s.setRoom (some k))).setRoom none) = launch slots cs st res s) := by
  rw [launch_completes slots cs st res s (takes_of_room_none hroom _)]
  rcases takes_or_stalls (s.setRoom (some k)) (cs.flatMap (emitCommand s.params.framing)).length with ht | ⟨k', hr, hk⟩
  · rw [launch_completes slots cs st res _ ht]
    refine ⟨fun _ => ?_, fun hop => absurd rfl hop⟩
    simp [State.completed, State.setRoom, hroom]
  · obtain ⟨o, hlaunch, hrest, -, hstatus, hres⟩ := launch_stalls slots cs st res _ k' hr hk
    rw [hlaunch]
    refine ⟨fun hop => absurd hop (Option.some_ne_none o), fun _ => ?_⟩
    have hresponse : o.response = Response.of st res := by rw [Operation.response, hstatus, hres]
    rw [State.setRoom_params] at hrest
    rw [advance_completes _ o rfl (takes_of_room_none rfl _)]
    simp [State.completed, State.setRoom, hrest, hresponse, hroom]

/-- The read looks at neither the transport nor the schedule. -/
theorem sensed_setRoom (i : Instr) (s : State) (r : Option Nat) :
    sensed i (s.setRoom r) = (sensed i s).setRoom r ∧ (sensed i s).room = s.room ∧
    (sensed i s).schedule = s.schedule := by
  cases i with
  | acceleration w =>
    cases hax : axisOf w with
    | none => simp [sensed, hax]
    | some a => exact ⟨by simp only [sensed, hax]; rfl, by simp [sensed, hax]⟩
  | _ => exact ⟨rfl, rfl, rfl⟩

/-- Settles O40: both runs are the same launch, the one held and then let go on. -/
theorem stallDoesNotChangeTheOutcome : Obligations.StallDoesNotChangeTheOutcome := by
  intro i s k hs _ hroom
  obtain ⟨hsensed, hroom', hsched⟩ := sensed_setRoom i s (some k)
  obtain ⟨hdone, hheld⟩ := launch_resumes i.operands (commandsOf s.params i) (expectedStatus s.params i)
    (resultField s.reading i) (hroom'.trans hroom) k
  have hexec := exec_eq_launch i (s.setRoom (some k))
  rw [hsensed] at hexec
  refine ⟨_, _, hexec, exec_eq_launch i s, hdone, fun hop => ?_⟩
  obtain ⟨o, ho⟩ := Option.ne_none_iff_exists'.mp hop
  rw [← hheld hop]
  refine step_of_busy ?_ ho
  obtain ⟨-, -, -, -, -, hkept⟩ := launch_unchanged i.operands (commandsOf s.params i) (expectedStatus s.params i)
    (resultField s.reading i) ((sensed i s).setRoom (some k))
  exact hkept.trans (hsched.trans hs)

end Sys2Proof.Machine
end
